-- ==== Sys2Proof/Word.lean ====
section
/-! DEFINITION. The word types of the block (00_scope.md R5, R6): wire bytes, 7-bit header fields,
14-bit values. All are unsigned. -/

namespace Sys2Proof

/-- A byte on the wire, bits 7 down to 0 (R6). -/
abbrev Byte := BitVec 8

/-- The seven payload bits of a data byte: `range_start`, `count`, and either half of a value (R5, R76, R77). -/
abbrev Field := BitVec 7

/-- A value: pulse width, digital level or quantised reading, 14 bits (R5, R11, R78). -/
abbrev Val := BitVec 14

end Sys2Proof
end

