-- ==== Sys2Proof/Config.lean ====
section
/-! DEFINITION. What the spec leaves open (00_scope.md R5, rows marked OPEN; 93_implementation_defined.md V1, V4,
V6, V7): constants with no body, so that no proof can see a value of them; and the types of what the
environment hands to the block. The constants the spec fixes stand beside the code that uses them
(Decode.lean, Machine/Quantise.lean). -/

namespace Sys2Proof

/-- An input event: the answer to a pull (`byte`, `timeout`), the link becoming ready (40_framer.md R101, R102),
or the reset input (70_reset_and_hazards.md R240). -/
inductive InputEvent where
  | byte (b : Byte)
  | timeout
  | linkReady
  | rst
  deriving DecidableEq, Repr, Inhabited

/-- The ADC collaborator's answer to one read: `Ok(x)` in volts or amperes, or `Fail` (60_exceptions.md R222).
The reading is exact: a rational number (log entry 5, DEDUCED). -/
inductive AdcAnswer where
  | ok (x : Rat)
  | fail
  deriving DecidableEq, Repr, Inhabited

/-- `PULSE_RESET(i)`: the pulse cell's value after reset, open (10_state.md R13; D10; log entry 8). -/
opaque Config.pulseReset : Fin 18 → Val

/-- `PWM_INDEX`: the PWM output of each actuator channel, an open bijection on 0..17 (20_memory.md R43; D19;
log entry 11). -/
opaque Config.pwmIndex : Equiv.Perm (Fin 18)

/-- `MUX_ADDR`: the multiplexer address of each sensor channel 18..25, open and injective (20_memory.md R44; D19).
Every injection of 18..25 into the addresses is the restriction of some permutation (log entry 11). -/
opaque Config.muxAddr : Equiv.Perm Nat

/-- `GPIO_PIN`: the pin of each digital channel 26..28, open and injective (20_memory.md R45; D19; log entry 11). -/
opaque Config.gpioPin : Equiv.Perm Nat

/-- The environment's free choice of the `n`-th input event not listed in the state (40_framer.md R101; V7, V8;
log entry 2). -/
opaque Config.envEvent : Nat → InputEvent

/-- The `n`-th ADC answer not listed in the state: a fresh free value per read (42_get.md R165; V6; log entry 4). -/
opaque Config.adcAnswer : Nat → AdcAnswer

end Sys2Proof
end

