-- ==== Sys2Proof/Syntax.lean ====
section
/-! DEFINITION. The two commands of the block (30_encoding.md R92, opcode_table.json): one constructor per row. -/

namespace Sys2Proof

/-- A command packet. As in the spec's own notation (30_encoding.md R90), a SET carries its list of values and
its `count` is the length of that list. -/
inductive Instr where
  /-- `SET start, [v_0 .. v_(n-1)]` (41_set.md R130). -/
  | set (start : Field) (values : List Val)
  /-- `GET start, count` (42_get.md R150). -/
  | get (start count : Field)
  deriving DecidableEq, Repr

end Sys2Proof
end

