-- ==== Sys2Proof/WellFormed.lean ====
section
/-! DEFINITION. The two checks a command must pass: a valid start channel and a range inside the channel map
(30_encoding.md R76, R77; 20_memory.md R47). A command that passes them has an encoding, since then
`count <= 29`. -/

namespace Sys2Proof

/-- The first channel the command addresses. -/
def Instr.start : Instr → Field
  | .set start _ => start
  | .get start _ => start

/-- The number of slots of the command. -/
def Instr.slots : Instr → Nat
  | .set _ values => values.length
  | .get _ count => count.toNat

/-- First check: `range_start` is 0 to 28 (R76). -/
def Instr.startValid (i : Instr) : Bool := decide (i.start.toNat ≤ 28)

/-- Second check: `range_start + count <= 29`, summed without wrap (R77, R47). -/
def Instr.rangeFits (i : Instr) : Bool := decide (i.start.toNat + i.slots ≤ 29)

/-- A well-formed command. -/
def Instr.wf (i : Instr) : Bool := i.startValid && i.rangeFits

end Sys2Proof
end

