-- ==== Sys2Proof/Decode.lean ====
section
/-! DEFINITION. Byte classes, the value codec, the packet decoder and the encoder (30_encoding.md). The framer
(Machine/Framer.lean) uses the same byte classes, codec and range check, one byte at a time. -/

namespace Sys2Proof

/-- `CMD_SET` (30_encoding.md R71; the literal is unaudited: log entry 20). -/
def Config.cmdSet : Byte := 0xD3

/-- `CMD_GET` (30_encoding.md R71; the literal is unaudited: log entry 20). -/
def Config.cmdGet : Byte := 0xC7

/-- A byte with bit 7 set is a command byte, any other a data byte (R70). -/
def isCommand (b : Byte) : Bool := b.getLsbD 7

/-- Bits 6:0 of a byte (R76, R77, R78). -/
def fieldOf (b : Byte) : Field := b.extractLsb' 0 7

/-- The data byte that carries a field: bit 7 clear (R70). -/
def dataByte (f : Field) : Byte := f.setWidth 8

/-- `enc(v) = (v[6:0], v[13:7])`, low part first (R80, R49). -/
def enc (v : Val) : Field × Field := (v.extractLsb' 0 7, v.extractLsb' 7 7)

/-- `dec(b1, b2) = b1 | (b2 << 7)` on the two seven-bit halves (R81). -/
def dec (lo hi : Field) : Val := lo.setWidth 14 ||| (hi.setWidth 14 <<< 7)

/-- The two wire bytes of a value (R78). -/
def valueBytes (v : Val) : List Byte := [dataByte (enc v).1, dataByte (enc v).2]

/-- The range check of a header, the sum without wrap-around (40_framer.md R113, 20_memory.md R47). -/
def rangeValid (start count : Nat) : Bool := decide (start ≤ 28) && decide (start + count ≤ 29)

/-- The command kinds the first byte selects (R92). -/
inductive Cmd where
  | set
  | get
  deriving DecidableEq, Repr

/-- The command a command byte starts, if it is one of the two valid ones (R71, R84). -/
def cmdOf (b : Byte) : Option Cmd :=
  if b = Config.cmdSet then some .set else if b = Config.cmdGet then some .get else none

/-- The command byte of a command (R71). -/
def cmdByte : Cmd → Byte
  | .set => Config.cmdSet
  | .get => Config.cmdGet

/-- Why bytes are not a packet. -/
inductive DecodeError where
  /-- The bytes end before the packet does (R79). -/
  | truncated
  /-- The first byte is a data byte: no packet starts here (R85). -/
  | dataByteFirst (b : Byte)
  /-- The first byte is an illegal command byte (R84; `F_BADCMD`). -/
  | badCommand (b : Byte)
  /-- A command byte stands where a data byte is due (R87; `F_RESYNC`). -/
  | commandByteInside (b : Byte)
  /-- Reserved header values: the range leaves the channel map (R86; `F_RANGE`). -/
  | rangeInvalid (start count : Field)
  deriving DecidableEq, Repr

/-- `n` payload values, two data bytes each (R73, R78). -/
def decodeValues : Nat → List Byte → Except DecodeError (List Val × List Byte)
  | 0, bytes => .ok ([], bytes)
  | _ + 1, [] => .error .truncated
  | _ + 1, [b] => if isCommand b then .error (.commandByteInside b) else .error .truncated
  | n + 1, b1 :: b2 :: bytes =>
    if isCommand b1 then .error (.commandByteInside b1)
    else if isCommand b2 then .error (.commandByteInside b2)
    else match decodeValues n bytes with
      | .ok (vs, rest) => .ok (dec (fieldOf b1) (fieldOf b2) :: vs, rest)
      | .error e => .error e

/-- The rest of a packet once its header is complete: the range check, then the payload of a SET (R79). -/
def decodeBody (cmd : Cmd) (start count : Field) (bytes : List Byte) : Except DecodeError (Instr × List Byte) :=
  if rangeValid start.toNat count.toNat then
    match cmd with
    | .get => .ok (.get start count, bytes)
    | .set =>
      match decodeValues count.toNat bytes with
      | .ok (vs, rest) => .ok (.set start vs, rest)
      | .error e => .error e
  else .error (.rangeInvalid start count)

/-- The two header bytes after a command byte (R73, R74, R87). -/
def decodeHeader (cmd : Cmd) : List Byte → Except DecodeError (Instr × List Byte)
  | [] => .error .truncated
  | [s] => if isCommand s then .error (.commandByteInside s) else .error .truncated
  | s :: n :: bytes =>
    if isCommand s then .error (.commandByteInside s)
    else if isCommand n then .error (.commandByteInside n)
    else decodeBody cmd (fieldOf s) (fieldOf n) bytes

/-- The packet at the head of a byte string, with the bytes after it; total, rejecting by name (R79, R92). -/
def decode : List Byte → Except DecodeError (Instr × List Byte)
  | [] => .error .truncated
  | c :: bytes =>
    if isCommand c then
      match cmdOf c with
      | some cmd => decodeHeader cmd bytes
      | none => .error (.badCommand c)
    else .error (.dataByteFirst c)

/-- The bytes of a command (R73, R74). Meant for commands with at most 127 slots; a longer list of values has no
encoding (R90). -/
def encode : Instr → List Byte
  | .set start values =>
    Config.cmdSet :: dataByte start :: dataByte (BitVec.ofNat 7 values.length) :: values.flatMap valueBytes
  | .get start count => [Config.cmdGet, dataByte start, dataByte count]

/-- The pseudo-commands of the text notation (R91): `PULSE ch, v` for an actuator channel, `AUX n, b` for `n` 1 or 2
(here 0 or 1), `READ ch`. -/
inductive Pseudo where
  | enable
  | disable
  | pulse (ch : Fin 18) (v : Val)
  | aux (n : Fin 2) (b : Bool)
  | read (ch : Field)
  | nop
  deriving DecidableEq, Repr

/-- The fixed expansion of each pseudo-command (R91). -/
def expand : Pseudo → Instr
  | .enable => .set 26 [1]
  | .disable => .set 26 [0]
  | .pulse ch v => .set (BitVec.ofNat 7 ch.val) [v]
  | .aux n b => .set (BitVec.ofNat 7 (27 + n.val)) [if b then 1 else 0]
  | .read ch => .get ch 1
  | .nop => .set 0 []

/-- The length of a packet in bytes (R79). -/
def Instr.byteLength : Instr → Nat
  | .set _ values => 3 + 2 * values.length
  | .get _ _ => 3

/-- The bytes of an instruction given as opcode_table.json numbers its bits (bit 0 the least significant bit of
the first byte), followed by zero bytes up to the longest packet, 61 bytes (R75, R77). -/
def tableBytes (nbits w : Nat) : List Byte :=
  (List.range (nbits / 8)).map (fun j => BitVec.ofNat 8 (w >>> (8 * j))) ++ List.replicate 61 0#8

/-- The instruction the decoder reads from a word of the command table. -/
def decodeTableWord (nbits w : Nat) : Option Instr :=
  match decode (tableBytes nbits w) with
  | .ok (i, _) => some i
  | .error _ => none

end Sys2Proof
end

