-- ==== Sys2Proof/Machine/State.lean ====
section
/-! DEFINITION. The machine's state as plain data (10_state.md), its outputs, the reasons a step can stop, and
the state after reset (70_reset_and_hazards.md R241). -/

namespace Sys2Proof.Machine

/-- The framer's position, this block's program counter (10_state.md R15, R16). -/
inductive Fsm where
  | idle
  | hdrStart
  | hdrCount
  | payLo
  | payHi
  deriving DecidableEq, Repr

/-- The seven conditions of 60_exceptions.md R200, each with its `info`. The first five are packet faults, the
last two notices. -/
inductive Diag where
  /-- `F_BADCMD(c)` (R201). -/
  | badCmd (c : Byte)
  /-- `F_RESYNC(fsm)` (R202). -/
  | resync (fsm : Fsm)
  /-- `F_HDR_TIMEOUT` (R203). -/
  | hdrTimeout
  /-- `F_PAY_TIMEOUT(k)` (R203). -/
  | payTimeout (k : Nat)
  /-- `F_RANGE(start, count)` (R204; numbers: log entry 26). -/
  | range (start count : Nat)
  /-- `N_SET_RO(idx)` (R208). -/
  | setRo (idx : Nat)
  /-- `N_ADC_FAIL(idx)` (R209). -/
  | adcFail (idx : Nat)
  deriving DecidableEq, Repr

/-- The two reads the ADC collaborator offers (60_exceptions.md R222). -/
inductive AdcKind where
  | voltage
  | current
  deriving DecidableEq, Repr

/-- One externally visible event of a step, in the order they happen (20_memory.md R53, R61, R62; 43_gate.md
R181: one event per register write; R190: and one per read of a pulse cell, which is a collaborator call; log
entry 12). -/
inductive Output where
  /-- `Tx(b)`: a byte on the outbound stream (42_get.md R168). -/
  | tx (b : Byte)
  /-- `Diag(code, info)` on the diagnostic port (60_exceptions.md R206). -/
  | diag (d : Diag)
  /-- `pulse[ch] <- v` (41_set.md R133). -/
  | pulse (ch : Fin 18) (v : Val)
  /-- A GET slot's read of `pulse[ch]` and the value it gave (42_get.md R153; 43_gate.md R190). -/
  | getPulse (ch : Fin 18) (v : Val)
  /-- `enable <- b`, with the relay pin (41_set.md R135). -/
  | enable (b : Bool)
  /-- `aux1 <- b`, with its pin (41_set.md R136). -/
  | aux1 (b : Bool)
  /-- `aux2 <- b`, with its pin (41_set.md R136). -/
  | aux2 (b : Bool)
  /-- `mux_sel <- addr` (42_get.md R155 to R157). -/
  | select (addr : Nat)
  /-- One `AdcRead(kind)` and its answer (60_exceptions.md R222). -/
  | adcRead (kind : AdcKind) (answer : AdcAnswer)
  deriving DecidableEq, Repr

/-- The packet assembly registers (10_state.md R25 to R27). -/
structure Framer where
  fsm   : Fsm
  cmd   : Cmd
  start : Field
  count : Field
  k     : BitVec 5
  lo    : Field
  buf   : Vector Val 29
  deriving DecidableEq, Repr

/-- The environment's side: the model's own fields, not the block's (log entries 2 and 4). -/
structure Env where
  /-- Input events the environment delivers next, oldest first. -/
  inbox     : List InputEvent
  /-- How many events have been drawn as free values. -/
  envDraws  : Nat
  /-- ADC answers that come next, oldest first; `none` for a read that never answers. -/
  adcScript : List (Option AdcAnswer)
  /-- How many ADC answers have been drawn as free values. -/
  adcDraws  : Nat
  deriving DecidableEq, Repr

/-- The machine's state. -/
structure State where
  /-- `pulse[0..17]` (R10, R11). -/
  pulse  : Vector Val 18
  /-- `enable`, also the relay pin's latch (R18, R22). -/
  enable : Bool
  /-- The latch of channel 27 (R21). -/
  aux1   : Bool
  /-- The latch of channel 28 (R21). -/
  aux2   : Bool
  /-- `mux_sel`: the address selected last, or none (R24; log entry 10). -/
  muxSel : Option Nat
  /-- `link_up` (R20). -/
  linkUp : Bool
  /-- `fsm`, `cmd`, `start`, `count`, `k`, `lo`, `buf` (R15, R16, R25). -/
  framer : Framer
  /-- Every output so far, oldest first: the outbound stream and `diag` are in it (log entry 12). -/
  out    : List Output
  /-- The environment's side. -/
  env    : Env
  deriving DecidableEq, Repr

/-- Where the machine stops with a fault. -/
inductive Fault where
  /-- An `AdcRead` whose answer never comes: the block waits inside the step for ever (60_exceptions.md R230;
  93_implementation_defined.md S1). Raised by `adcRead` alone, when the environment's listed answer is `none`.
  Safe: the machine stops where the spec says it is stuck. -/
  | adcNoAnswer
  deriving DecidableEq, Repr

/-- Where the machine gives no meaning. -/
inductive Refusal where
  /-- An instruction with no meaning yet, by its mnemonic. Raised by no arm of this model. Safe. -/
  | notModelled (mnemonic : String)
  /-- A slot action on an index above 28 (60_exceptions.md R231, the recommended refusal). Raised by `memRead` and
  `memWrite`, and never reached from `exec` or `step`, which check the range first. Safe. -/
  | invalidChannel (idx : Nat)
  deriving DecidableEq, Repr

/-- The framer after reset: `IDLE` (R241); the assembly registers are don't care there and hold zero
(DESIGN CHOICE, unsafe: log entry 9). -/
def Framer.reset : Framer where
  fsm := .idle
  cmd := .set
  start := 0
  count := 0
  k := 0
  lo := 0
  buf := #v[0, 0, 0, 0, 0, 0, 0, 0, 0, 0, 0, 0, 0, 0, 0, 0, 0, 0, 0, 0, 0, 0, 0, 0, 0, 0, 0, 0, 0]

/-- `PULSE_RESET(0)` to `PULSE_RESET(17)` (R13). -/
def pulseResetCells : Vector Val 18 :=
  #v[Config.pulseReset 0, Config.pulseReset 1, Config.pulseReset 2, Config.pulseReset 3, Config.pulseReset 4,
     Config.pulseReset 5, Config.pulseReset 6, Config.pulseReset 7, Config.pulseReset 8, Config.pulseReset 9,
     Config.pulseReset 10, Config.pulseReset 11, Config.pulseReset 12, Config.pulseReset 13, Config.pulseReset 14,
     Config.pulseReset 15, Config.pulseReset 16, Config.pulseReset 17]

/-- The environment when nothing is listed (log entries 2 and 4). -/
def Env.quiet : Env where
  inbox := []
  envDraws := 0
  adcScript := []
  adcDraws := 0

/-- The machine right after reset (70_reset_and_hazards.md R241, R242). -/
def State.reset : State where
  pulse := pulseResetCells
  enable := false
  aux1 := false
  aux2 := false
  muxSel := none
  linkUp := false
  framer := Framer.reset
  out := []
  env := Env.quiet

end Sys2Proof.Machine
end

