-- ==== Sys2Proof/Machine/Flags.lean ====
section
/-! DEFINITION. The one-bit cells as values: `truth` on the way in, zero extension on the way out. The block has no
condition codes (10_state.md section 4). -/

namespace Sys2Proof.Machine

/-- `truth(v)`: 0 when `v = 0`, 1 otherwise (00_scope.md R6; 10_state.md R21). -/
def truth (v : Val) : Bool := v != 0

/-- `zext_14` of a one-bit cell: 0 or 1 (42_get.md R159). -/
def levelValue (b : Bool) : Val := if b then 1 else 0

end Sys2Proof.Machine
end

