-- ==== Sys2Proof/Machine/Operands.lean ====
section
/-! DEFINITION. The operand space: channel kinds and the channel map (20_memory.md R40 to R47). -/

namespace Sys2Proof.Machine

/-- The kind of a channel (20_memory.md R41); the actuator and auxiliary kinds say which one. -/
inductive Kind where
  | actuator (ch : Fin 18)
  | touch
  | current
  | voltage
  | relay
  | auxiliary (n : Fin 2)
  | invalid
  deriving DecidableEq, Repr

/-- `kind(idx)` (R41). -/
def kind (idx : Nat) : Kind :=
  if h : idx < 18 then .actuator ⟨idx, h⟩
  else if idx < 24 then .touch
  else if idx = 24 then .current
  else if idx = 25 then .voltage
  else if idx = 26 then .relay
  else if idx = 27 then .auxiliary 0
  else if idx = 28 then .auxiliary 1
  else .invalid

/-- The four read-only sensor kinds' common test: channels 18 to 25 (R48). -/
def Kind.isSensor : Kind → Bool
  | .touch => true
  | .current => true
  | .voltage => true
  | .actuator _ => false
  | .relay => false
  | .auxiliary _ => false
  | .invalid => false

/-- A channel map entry: the physical resource of a channel (R46). -/
inductive Resource where
  | actuator (pwmIndex : Fin 18)
  | muxSensor (address : Nat)
  | gpio (pin : Nat)
  deriving DecidableEq, Repr

/-- The channel map: a lookup that has no entry above 28 (R46, R47). -/
def channelMap (idx : Nat) : Option Resource :=
  match kind idx with
  | .actuator ch => some (.actuator (Config.pwmIndex ch))
  | .touch => some (.muxSensor (Config.muxAddr idx))
  | .current => some (.muxSensor (Config.muxAddr idx))
  | .voltage => some (.muxSensor (Config.muxAddr idx))
  | .relay => some (.gpio (Config.gpioPin idx))
  | .auxiliary _ => some (.gpio (Config.gpioPin idx))
  | .invalid => none

end Sys2Proof.Machine
end

