-- ==== Sys2Proof/Machine/Ops.lean ====
section
/-! DEFINITION. The named operations on the state: one register write each, with the output it causes
(43_gate.md R181); the environment's answers; and raising a diagnostic, the block's only form of exception
(60_exceptions.md R207). -/

namespace Sys2Proof.Machine

/-- The outcome of an operation that also yields a value. -/
abbrev Result (α : Type) := Host.Outcome α Fault Refusal

/-- Go on with a next state, or stop where the first part stopped. -/
def andThen {α β : Type} (o : Result α) (f : α → Result β) : Result β :=
  match o with
  | .next a => f a
  | .fault r => .fault r
  | .refused r => .refused r

/-! ## Register writes and outputs -/

/-- Append one output event. -/
def State.emit (s : State) (o : Output) : State := { s with out := s.out ++ [o] }

/-- `Tx(b)`: always completes within the step (42_get.md R168; log entry 17). -/
def State.tx (s : State) (b : Byte) : State := s.emit (.tx b)

/-- `pulse[ch] <- v` (41_set.md R133). -/
def State.writePulse (s : State) (ch : Fin 18) (v : Val) : State :=
  { s with pulse := s.pulse.set ch.val v ch.isLt, out := s.out ++ [.pulse ch v] }

/-- The GET slot's read of `pulse[ch]`, recorded as the collaborator call it is in the call view; no register changes
(42_get.md R153; 43_gate.md R190). -/
def State.readPulse (s : State) (ch : Fin 18) : State := s.emit (.getPulse ch s.pulse[ch.val])

/-- `enable <- b`; the relay pin is the same latch (41_set.md R135, 10_state.md R22). -/
def State.writeEnable (s : State) (b : Bool) : State := { s with enable := b, out := s.out ++ [.enable b] }

/-- `aux1 <- b` (41_set.md R136). -/
def State.writeAux1 (s : State) (b : Bool) : State := { s with aux1 := b, out := s.out ++ [.aux1 b] }

/-- `aux2 <- b` (41_set.md R136). -/
def State.writeAux2 (s : State) (b : Bool) : State := { s with aux2 := b, out := s.out ++ [.aux2 b] }

/-- `mux_sel <- addr`, the collaborator's `select(addr)` (60_exceptions.md R222). -/
def State.selectMux (s : State) (addr : Nat) : State :=
  { s with muxSel := some addr, out := s.out ++ [.select addr] }

/-- `link_up <- b` (40_framer.md R102). -/
def State.setLinkUp (s : State) (b : Bool) : State := { s with linkUp := b }

/-- Write the packet assembly registers. -/
def State.setFramer (s : State) (f : Framer) : State := { s with framer := f }

/-- `fsm <- q`. -/
def State.setFsm (s : State) (q : Fsm) : State := s.setFramer { s.framer with fsm := q }

/-- Replace the environment's side. -/
def State.setEnv (s : State) (e : Env) : State := { s with env := e }

/-! ## Diagnostics: raising a packet fault or a notice -/

/-- The numeric code of a diagnostic (60_exceptions.md R200). -/
def Diag.code : Diag → Nat
  | .badCmd _ => 1
  | .resync _ => 2
  | .hdrTimeout => 3
  | .payTimeout _ => 4
  | .range _ _ => 5
  | .setRo _ => 6
  | .adcFail _ => 7

/-- Emit `Diag(code, info)` and nothing else: all that raising a notice does (R206, R207). -/
def State.notice (s : State) (d : Diag) : State := s.emit (.diag d)

/-- Raise a packet fault: emit its diagnostic and abandon the packet, `fsm <- IDLE`; nothing is saved and no other
register changes (R205, R207, R212). There is no return from it (R213). -/
def State.raiseFault (s : State) (d : Diag) : State := (s.notice d).setFsm .idle

/-! ## The environment's answers -/

/-- The next input event: the oldest listed one, else a fresh free value (40_framer.md R101; log entry 2). -/
def nextEvent (s : State) : InputEvent × State :=
  match s.env.inbox with
  | e :: rest => (e, s.setEnv { s.env with inbox := rest })
  | [] => (Config.envEvent s.env.envDraws, s.setEnv { s.env with envDraws := s.env.envDraws + 1 })

/-- The next ADC answer: the oldest listed one, else a fresh free value (42_get.md R165; log entry 4). -/
def nextAnswer (s : State) : Option AdcAnswer × State :=
  match s.env.adcScript with
  | a :: rest => (a, s.setEnv { s.env with adcScript := rest })
  | [] => (some (Config.adcAnswer s.env.adcDraws), s.setEnv { s.env with adcDraws := s.env.adcDraws + 1 })

/-- `AdcRead(kind)`: the block waits for the answer inside the step (60_exceptions.md R222); an answer that never
comes is the stuck state S1. -/
def adcRead (kind : AdcKind) (s : State) : Result (AdcAnswer × State) :=
  match nextAnswer s with
  | (some a, t) => .next (a, t.emit (.adcRead kind a))
  | (none, _) => .fault .adcNoAnswer

/-- Reset: every register of the block at its reset value, no output (70_reset_and_hazards.md R240, R241). What
the environment holds, and the record of earlier outputs, are not the block's (log entry 13). -/
def State.applyReset (s : State) : State := { State.reset with out := s.out, env := s.env }

end Sys2Proof.Machine
end

