-- ==== Sys2Proof/Machine/Quantise.lean ====
section
/-! DEFINITION. Sensor quantisation over exact arithmetic (42_get.md R160 to R164; D12; log entry 6). -/

namespace Sys2Proof.Machine

/-- `KV = 1024 / 3.3` counts per volt, exactly `10240/33` (R161). -/
def kv : Rat := 10240 / 33

/-- `KI = 0.0814` amperes per count, exactly `407/5000` (R162). -/
def ki : Rat := 407 / 5000

/-- `I_OFFSET`, the zero point of the current scale (R162). -/
def iOffset : Int := 512

/-- `FAULT_SLOT`, the value sent for a failed read (R166; D13; log entry 7). -/
def faultSlot : Val := 0x3FFF

/-- `rnd(y)`: the nearest integer, a tie going to the one farther from zero (R163). -/
def rnd (y : Rat) : Int := if 0 ≤ y then (y + 1 / 2).floor else -((-y + 1 / 2).floor)

/-- `sat14(n)`: clamp to 0..16383 (R164). -/
def sat14 (n : Int) : Val :=
  if n < 0 then 0 else if 16383 < n then BitVec.ofNat 14 16383 else BitVec.ofNat 14 n.toNat

/-- `QV`, the voltage quantiser (R161). -/
def quantiseVoltage (x : Rat) : Val := sat14 (rnd (x * kv))

/-- `QI`, the current quantiser (R162). -/
def quantiseCurrent (x : Rat) : Val := sat14 (rnd (x / ki) + iOffset)

/-- The quantiser of each kind of read (R155 to R157). -/
def quantise : AdcKind → Rat → Val
  | .voltage => quantiseVoltage
  | .current => quantiseCurrent

end Sys2Proof.Machine
end

