-- ==== Sys2Proof/Machine/Get.lean ====
section
/-! DEFINITION. The GET command and the response writer (42_get.md). -/

namespace Sys2Proof.Machine

/-- `Sense(kind, Q, idx)` after its select: one read; a failed one raises `N_ADC_FAIL` and gives `FAULT_SLOT`
(42_get.md R152, R166). -/
def sense (k : AdcKind) (idx : Nat) (s : State) : Result (Val × State) :=
  andThen (adcRead k s) fun
    | (.ok x, t) => .next (quantise k x, t)
    | (.fail, t) => .next (faultSlot, t.notice (.adcFail idx))

/-- `MemRead(idx, 1)`: the GET slot action by kind (R152 to R159). A sensor slot selects its address and then reads
(R155 to R158). The invalid arm is the refusal 60_exceptions.md R231 recommends, never reached (log entry 15). -/
def memRead (idx : Nat) (s : State) : Result (Val × State) :=
  match kind idx with
  | .actuator ch => .next (s.pulse[ch.val], s.readPulse ch)
  | .touch => sense .voltage idx (s.selectMux (Config.muxAddr idx))
  | .current => sense .current idx (s.selectMux (Config.muxAddr idx))
  | .voltage => sense .voltage idx (s.selectMux (Config.muxAddr idx))
  | .relay => .next (levelValue s.enable, s)
  | .auxiliary 0 => .next (levelValue s.aux1, s)
  | .auxiliary 1 => .next (levelValue s.aux2, s)
  | .invalid => .refused (.invalidChannel idx)

/-- The two bytes of a slot's value, low part first, at once after the value is obtained (R167). -/
def State.txValue (s : State) (v : Val) : State := (s.tx (dataByte (enc v).1)).tx (dataByte (enc v).2)

/-- The echo: command byte, `range_start`, `count` (R151). -/
def State.txEcho (s : State) (start count : Field) : State :=
  ((s.tx Config.cmdGet).tx (dataByte start)).tx (dataByte count)

/-- The slots of `DispatchGET`: `n` of them from channel `idx` up, each read and sent before the next (R150). -/
def readSlots : Nat → Nat → State → Result State
  | 0, _, s => .next s
  | n + 1, idx, s => andThen (memRead idx s) fun (v, t) => readSlots n (idx + 1) (t.txValue v)

/-- `DispatchGET`: the echo, then the slots (R150). -/
def dispatchGet (start count : Field) (s : State) : Result State :=
  readSlots count.toNat start.toNat (s.txEcho start count)

/-- GET: the whole packet fails, with nothing sent, when its range leaves the channel map (40_framer.md R113; log
entry 14); otherwise it is dispatched and the framer returns to `IDLE` (40_framer.md R114; 42_get.md R150). -/
def execGet (start count : Field) (s : State) : Result State :=
  if rangeValid start.toNat count.toNat then
    andThen (dispatchGet start count s) fun t => .next (t.setFsm .idle)
  else .next (s.raiseFault (.range start.toNat count.toNat))

end Sys2Proof.Machine
end

