-- ==== Sys2Proof/Machine/Set.lean ====
section
/-! DEFINITION. The SET command (41_set.md). -/

namespace Sys2Proof.Machine

/-- `MemWrite(idx, 1, v)`: the SET slot action by kind (41_set.md R132 to R136). The invalid arm is the refusal
60_exceptions.md R231 recommends, never reached (log entry 15). -/
def memWrite (idx : Nat) (v : Val) (s : State) : Result State :=
  match kind idx with
  | .actuator ch => .next (s.writePulse ch v)
  | .touch => .next (s.notice (.setRo idx))
  | .current => .next (s.notice (.setRo idx))
  | .voltage => .next (s.notice (.setRo idx))
  | .relay => .next (s.writeEnable (truth v))
  | .auxiliary 0 => .next (s.writeAux1 (truth v))
  | .auxiliary 1 => .next (s.writeAux2 (truth v))
  | .invalid => .refused (.invalidChannel idx)

/-- `DispatchSET`: one slot action per value, channels ascending (R130). -/
def dispatchSet : Nat → List Val → State → Result State
  | _, [], s => .next s
  | idx, v :: vs, s => andThen (memWrite idx v s) (dispatchSet (idx + 1) vs)

/-- SET: the whole packet fails when its range leaves the channel map (40_framer.md R113; log entry 14);
otherwise it is dispatched and the framer returns to `IDLE` (40_framer.md R115, R117; 41_set.md R130). -/
def execSet (start : Field) (values : List Val) (s : State) : Result State :=
  if rangeValid start.toNat values.length then
    andThen (dispatchSet start.toNat values s) fun t => .next (t.setFsm .idle)
  else .next (s.raiseFault (.range start.toNat values.length))

end Sys2Proof.Machine
end

