-- ==== Sys2Proof/Machine/Dispatch.lean ====
section
/-! DEFINITION. One arm per command (30_encoding.md R92). -/

namespace Sys2Proof.Machine

def exec (i : Instr) (s : State) : Host.Outcome State Fault Refusal :=
  match i with
  | .set start values => Sys2Proof.Machine.execSet start values s
  | .get start count => Sys2Proof.Machine.execGet start count s

end Sys2Proof.Machine
end

