-- ==== Sys2Proof/Machine/Framer.lean ====
section
/-! DEFINITION. The packet framer, the block's fetch: the reference step function of 40_framer.md R120, one
definition per kind of event, and what it takes to place a packet where the next step completes it. -/

namespace Sys2Proof.Machine

/-- `Timeout` while the link is up (40_framer.md R107, R112, R118). -/
def onTimeout (s : State) : State :=
  match s.framer.fsm with
  | .idle => s
  | .hdrStart => s.raiseFault .hdrTimeout
  | .hdrCount => s.raiseFault .hdrTimeout
  | .payLo => s.raiseFault (.payTimeout s.framer.k.toNat)
  | .payHi => s.raiseFault (.payTimeout s.framer.k.toNat)

/-- The packet in progress, if any, is abandoned by a command byte: `F_RESYNC` (R111, row 1 of R104). -/
def resync (s : State) : State :=
  match s.framer.fsm with
  | .idle => s
  | .hdrStart => s.raiseFault (.resync .hdrStart)
  | .hdrCount => s.raiseFault (.resync .hdrCount)
  | .payLo => s.raiseFault (.resync .payLo)
  | .payHi => s.raiseFault (.resync .payHi)

/-- A command byte, classified as in `IDLE` after any resynchronisation (R106, R110, R111). -/
def onCommandByte (b : Byte) (s : State) : State :=
  let t := resync s
  match cmdOf b with
  | some c => t.setFramer { t.framer with cmd := c, fsm := .hdrStart }
  | none => t.raiseFault (.badCmd b)

/-- The first header byte (R108). -/
def onStartByte (d : Byte) (s : State) : State :=
  s.setFramer { s.framer with start := fieldOf d, fsm := .hdrCount }

/-- The second header byte: the range check, then a GET or an empty SET is dispatched, or the payload awaited
(R109, R113 to R115). -/
def onCountByte (d : Byte) (s : State) : Result State :=
  if rangeValid s.framer.start.toNat (fieldOf d).toNat then
    match s.framer.cmd with
    | .get => exec (.get s.framer.start (fieldOf d)) (s.setFramer { s.framer with count := fieldOf d })
    | .set =>
      if fieldOf d = 0 then exec (.set s.framer.start []) (s.setFramer { s.framer with count := fieldOf d })
      else .next (s.setFramer { s.framer with count := fieldOf d, k := 0, fsm := .payLo })
  else .next (s.raiseFault (.range s.framer.start.toNat (fieldOf d).toNat))

/-- The low byte of a payload value (R116). -/
def onLowByte (d : Byte) (s : State) : State :=
  s.setFramer { s.framer with lo := fieldOf d, fsm := .payHi }

/-- `buf[k] <- dec(lo, d)`. An index outside `buf`, which no reachable state has (10_state.md R33), writes nothing
(log entry 22). -/
def storePayload (d : Byte) (f : Framer) : Framer :=
  { f with buf := f.buf.setIfInBounds f.k.toNat (dec f.lo (fieldOf d)) }

/-- The values of the SET being assembled: `buf[0..count-1]`. -/
def Framer.values (f : Framer) : List Val := f.buf.toList.take f.count.toNat

/-- The high byte of a payload value; the last one dispatches the SET (R117). -/
def onHighByte (d : Byte) (s : State) : Result State :=
  let f := storePayload d s.framer
  if f.k.toNat + 1 = f.count.toNat then exec (.set f.start f.values) (s.setFramer f)
  else .next (s.setFramer { f with k := f.k + 1, fsm := .payLo })

/-- A data byte, by the framer's state (R105, R108, R109, R113 to R117). -/
def onDataByte (d : Byte) (s : State) : Result State :=
  match s.framer.fsm with
  | .idle => .next s
  | .hdrStart => .next (onStartByte d s)
  | .hdrCount => onCountByte d s
  | .payLo => .next (onLowByte d s)
  | .payHi => onHighByte d s

/-- `step(S, Byte(b))`: bit 7 is examined first (R120; 60_exceptions.md R211). -/
def onByte (b : Byte) (s : State) : Result State :=
  if isCommand b then .next (onCommandByte b s) else onDataByte b s

/-- One input event. While the link is down the block pulls nothing, so a `Byte` or `Timeout` offered then passes
it by (40_framer.md R103; log entry 3). -/
def onEvent (e : InputEvent) (s : State) : Result State :=
  match e with
  | .rst => .next s.applyReset
  | .linkReady => .next (s.setLinkUp true)
  | .timeout => if s.linkUp then .next (onTimeout s) else .next s
  | .byte b => if s.linkUp then onByte b s else .next s

/-! ## The packet being assembled, as bytes -/

/-- The bytes of the packet being assembled that have been pulled so far (10_state.md R26). -/
def Framer.pulled (f : Framer) : List Byte :=
  match f.fsm with
  | .idle => []
  | .hdrStart => [cmdByte f.cmd]
  | .hdrCount => [cmdByte f.cmd, dataByte f.start]
  | .payLo =>
    [cmdByte f.cmd, dataByte f.start, dataByte f.count] ++ (f.buf.toList.take f.k.toNat).flatMap valueBytes
  | .payHi =>
    [cmdByte f.cmd, dataByte f.start, dataByte f.count] ++ (f.buf.toList.take f.k.toNat).flatMap valueBytes
      ++ [dataByte f.lo]

/-- The register a packet's last byte is latched into before its dispatch: `count` for the third byte of a header,
`buf[k]` for a payload's last byte (R114, R115, R117). -/
def Framer.latch (b : Byte) (f : Framer) : Framer :=
  match f.fsm with
  | .idle => f
  | .hdrStart => f
  | .hdrCount => { f with count := fieldOf b }
  | .payLo => f
  | .payHi => storePayload b f

/-! ## Placing a packet (log entry 21) -/

/-- Pull bytes one after another, keeping the last state reached. -/
def pullAll : List Byte → State → State
  | [], s => s
  | b :: bs, s =>
    match onByte b s with
    | .next t => pullAll bs t
    | .fault _ => s
    | .refused _ => s

/-- Offer bytes as the next input events, in order. -/
def State.offer (s : State) (bytes : List Byte) : State :=
  s.setEnv { s.env with inbox := bytes.map .byte ++ s.env.inbox }

/-- Place bytes so that the next step runs the packet at their head: the link is up, all bytes of the packet but its
last have been pulled, and the last is the next input event. Bytes that are no packet are only offered. -/
def placePacket (bytes : List Byte) (s : State) : State :=
  let t := (s.setLinkUp true).setFsm .idle
  match decode bytes with
  | .ok (i, _) => (pullAll (encode i).dropLast t).offer ((encode i).drop ((encode i).length - 1))
  | .error _ => t.offer bytes

end Sys2Proof.Machine
end

