-- ==== Sys2Proof/Machine/Step.lean ====
section
/-! DEFINITION. One step: one input event, run to completion (00_scope.md R9, 40_framer.md R100). -/

namespace Sys2Proof.Machine

/-- Take the next input event and run its step (R100, R120). -/
def step (s : State) : Host.Outcome State Fault Refusal :=
  onEvent (nextEvent s).1 (nextEvent s).2

/-- Place one word of the command table so that the next step runs its packet (log entry 21). -/
def State.withFetchWord (s : State) (nbits w : Nat) : State := placePacket (tableBytes nbits w) s

end Sys2Proof.Machine
end

