-- ==== Sys2Proof/Machine/Ports.lean ====
section
/-! DEFINITION. The output ports, levels that are functions of the registers (43_gate.md R181 to R186; 60_exceptions.md
R225), the operating mode (60_exceptions.md R215), the two output streams, and the collaborator calls the register
writes amount to (43_gate.md R190). -/

namespace Sys2Proof.Machine

/-- What a PWM output carries; `deasserted` is not a pulse of width 0 (43_gate.md R184). -/
inductive PwmOut where
  | deasserted
  | pulse (width : Val)
  deriving DecidableEq, Repr

/-- The port `pwm_active` (R182). -/
def State.pwmActive (s : State) : Bool := s.enable

/-- The port `pwm_width[p]`, whatever `enable` is (R183). -/
def State.pwmWidth (s : State) (p : Fin 18) : Val := s.pulse[(Config.pwmIndex.symm p).val]

/-- `pwm_out[p]` (R182). -/
def State.pwmOut (s : State) (p : Fin 18) : PwmOut :=
  if s.enable then .pulse (s.pwmWidth p) else .deasserted

/-- The relay pin: the same latch as `enable` (R185; 10_state.md R22). -/
def State.relayPin (s : State) : Bool := s.enable

/-- The level of a pin: the three pins of the channel map, no other (R185, R186). -/
def State.gpio (s : State) (pin : Nat) : Option Bool :=
  if pin = Config.gpioPin 26 then some s.relayPin
  else if pin = Config.gpioPin 27 then some s.aux1
  else if pin = Config.gpioPin 28 then some s.aux2
  else none

/-- The optional port `idle_indicator_run` (60_exceptions.md R225). -/
def State.idleIndicatorRun (s : State) : Bool := !s.linkUp

/-- The operating modes (60_exceptions.md R215). -/
inductive Mode where
  | waitLink
  | runDisabled
  | runEnabled
  deriving DecidableEq, Repr

/-- The mode, by `link_up` and `enable` (R215). -/
def State.mode (s : State) : Mode :=
  if s.linkUp then (if s.enable then .runEnabled else .runDisabled) else .waitLink

/-- The byte an output event puts on the outbound stream, if it does. -/
def Output.tx? : Output → Option Byte
  | .tx b => some b
  | .diag _ => none
  | .pulse _ _ => none
  | .getPulse _ _ => none
  | .enable _ => none
  | .aux1 _ => none
  | .aux2 _ => none
  | .select _ => none
  | .adcRead _ _ => none

/-- The diagnostic an output event puts on `diag`, if it does. -/
def Output.diag? : Output → Option Diag
  | .tx _ => none
  | .diag d => some d
  | .pulse _ _ => none
  | .getPulse _ _ => none
  | .enable _ => none
  | .aux1 _ => none
  | .aux2 _ => none
  | .select _ => none
  | .adcRead _ _ => none

/-- The outbound stream: every byte sent, in order (42_get.md R168). -/
def State.txStream (s : State) : List Byte := s.out.filterMap Output.tx?

/-- The diagnostic port: every diagnostic raised, in order (60_exceptions.md R206). -/
def State.diags (s : State) : List Diag := s.out.filterMap Output.diag?

/-- A call of the PWM or GPIO collaborator (43_gate.md R190); `getPulse` with the value it answered. -/
inductive Call where
  | setPulse (pwmIndex : Fin 18) (v : Val)
  | getPulse (pwmIndex : Fin 18) (v : Val)
  | enableAll
  | disableAll
  | write (pin : Nat) (b : Bool)
  deriving DecidableEq, Repr

/-- The call view of an output event (R190). The spec orders calls by slot only: that `enable_all` or `disable_all`
comes before the pin write inside one slot on channel 26 is the model's choice (DESIGN CHOICE, unsafe: log entry
27). So is it that the call is made again when the gate is already in that state, which R190 and R138 leave open
(DESIGN CHOICE, unsafe: log entry 28). -/
def Output.calls : Output → List Call
  | .pulse ch v => [.setPulse (Config.pwmIndex ch) v]
  | .getPulse ch v => [.getPulse (Config.pwmIndex ch) v]
  | .enable b => [if b then .enableAll else .disableAll, .write (Config.gpioPin 26) b]
  | .aux1 b => [.write (Config.gpioPin 27) b]
  | .aux2 b => [.write (Config.gpioPin 28) b]
  | .tx _ => []
  | .diag _ => []
  | .select _ => []
  | .adcRead _ _ => []

/-- Every call of the PWM and GPIO collaborators so far, in order (R190). -/
def State.calls (s : State) : List Call := s.out.flatMap Output.calls

end Sys2Proof.Machine
end

