-- ==== Sys2Proof/Safety.lean ====
section
/-! DEFINITION. The terms claims are stated in: the invariants of a good run, and the whole effect of each command
written out from the spec's tables, independently of the walks that `exec` performs. None of the seven diagnostics
is an unsafe event: a run with any number of them is a good run (60_exceptions.md R230). -/

namespace Sys2Proof.Machine

/-! ## Invariants -/

/-- The framer's invariant in the payload states (10_state.md R33, R26). -/
def Framer.Sound (f : Framer) : Prop :=
  f.fsm = .payLo ∨ f.fsm = .payHi →
    f.cmd = .set ∧ f.start.toNat ≤ 28 ∧ 1 ≤ f.count.toNat ∧ f.start.toNat + f.count.toNat ≤ 29 ∧
      f.k.toNat < f.count.toNat

/-- Before the link is up nothing has happened: the block waits in `IDLE` at its reset levels (40_framer.md R103;
60_exceptions.md R215; 70_reset_and_hazards.md R242). -/
def State.WaitsAtReset (s : State) : Prop :=
  s.linkUp = false →
    s.framer.fsm = .idle ∧ s.enable = false ∧ s.aux1 = false ∧ s.aux2 = false ∧ s.muxSel = none ∧
      s.pulse = pulseResetCells

/-- `mux_sel` is `none` or the address of a sensor channel (10_state.md R24). -/
def State.MuxSound (s : State) : Prop :=
  s.muxSel = none ∨ ∃ idx, 18 ≤ idx ∧ idx ≤ 25 ∧ s.muxSel = some (Config.muxAddr idx)

/-- The invariant of every reachable state (10_state.md R33 with R24, R103 and R215). -/
structure State.Inv (s : State) : Prop where
  framer : s.framer.Sound
  waits  : s.WaitsAtReset
  mux    : s.MuxSound

/-- One GET response (30_encoding.md R75). -/
def response (start count : Field) (values : List Val) : List Byte :=
  Config.cmdGet :: dataByte start :: dataByte count :: values.flatMap valueBytes

/-- A byte stream made of whole responses to GETs of valid ranges (42_get.md R169). -/
inductive Responses : List Byte → Prop where
  | none : Responses []
  | more (sent : List Byte) (start count : Field) (values : List Val) : Responses sent →
      rangeValid start.toNat count.toNat = true → values.length = count.toNat →
      Responses (sent ++ response start count values)

/-- What a command byte puts out before it is classified: one `F_RESYNC` if a packet was in progress (40_framer.md
R111). -/
def resyncOutputs : Fsm → List Output
  | .idle => []
  | .hdrStart => [.diag (.resync .hdrStart)]
  | .hdrCount => [.diag (.resync .hdrCount)]
  | .payLo => [.diag (.resync .payLo)]
  | .payHi => [.diag (.resync .payHi)]

/-! ## The effect of a SET -/

/-- The step dispatches a SET whose range covers channel `idx`: its event is the last payload byte. -/
def DispatchesSetOn (s : State) (idx : Nat) : Prop :=
  s.linkUp = true ∧ s.framer.fsm = .payHi ∧ s.framer.k.toNat + 1 = s.framer.count.toNat ∧
    s.framer.start.toNat ≤ idx ∧ idx < s.framer.start.toNat + s.framer.count.toNat ∧
    ∃ d u, nextEvent s = (.byte d, u) ∧ isCommand d = false

/-- The value a SET of `values` from `start` up writes to channel `idx`, if its range covers it. -/
def written (start : Nat) (values : List Val) (idx : Nat) : Option Val :=
  if start ≤ idx then values[idx - start]? else none

/-- What one SET slot puts out: one register write, or one notice (41_set.md R132 to R136). -/
def setSlotOutput (idx : Nat) (v : Val) : List Output :=
  match kind idx with
  | .actuator ch => [.pulse ch v]
  | .touch => [.diag (.setRo idx)]
  | .current => [.diag (.setRo idx)]
  | .voltage => [.diag (.setRo idx)]
  | .relay => [.enable (truth v)]
  | .auxiliary 0 => [.aux1 (truth v)]
  | .auxiliary 1 => [.aux2 (truth v)]
  | .invalid => []

/-- What a SET puts out: its slots' outputs, channels ascending (20_memory.md R62; 41_set.md R130). -/
def setOutputs (start : Nat) (values : List Val) : List Output :=
  (values.zipIdx start).flatMap fun (v, idx) => setSlotOutput idx v

/-- The state after a SET's dispatch, field by field (41_set.md R130 to R139); the framer is left as it was. -/
structure SetEffect (start : Nat) (values : List Val) (s t : State) : Prop where
  pulse  : ∀ ch : Fin 18, t.pulse[ch.val] = (written start values ch.val).getD s.pulse[ch.val]
  enable : t.enable = ((written start values 26).map truth).getD s.enable
  aux1   : t.aux1 = ((written start values 27).map truth).getD s.aux1
  aux2   : t.aux2 = ((written start values 28).map truth).getD s.aux2
  muxSel : t.muxSel = s.muxSel
  linkUp : t.linkUp = s.linkUp
  env    : t.env = s.env
  out    : t.out = s.out ++ setOutputs start values

/-! ## The effect of a GET -/

/-- How many of the channels from `a` up to but not including `b` are sensors: channels 18 to 25 (20_memory.md
R48). -/
def sensorsBetween (a b : Nat) : Nat := min b 26 - max a 18

/-- The answer the environment will give to the `n`-th ADC read from now (0 for the next one). -/
def answerAt (s : State) (n : Nat) : Option AdcAnswer :=
  match s.env.adcScript[n]? with
  | some a => a
  | none => some (Config.adcAnswer (s.env.adcDraws + (n - s.env.adcScript.length)))

/-- The environment answers each of the next `n` ADC reads (60_exceptions.md R222). -/
def Answered (s : State) (n : Nat) : Prop := ∀ j, j < n → answerAt s j ≠ none

/-- The read a sensor channel makes (42_get.md R155 to R157). -/
def sensorRead (idx : Nat) : AdcKind := if idx = 24 then .current else .voltage

/-- The value a slot returns for an answer (R161, R162, R166). -/
def answerValue (k : AdcKind) : AdcAnswer → Val
  | .ok x => quantise k x
  | .fail => faultSlot

/-- What a sensor slot does before its two bytes: select, read, and a notice if the read failed (20_memory.md R61;
60_exceptions.md R209). -/
def sensorOutputs (idx : Nat) (a : AdcAnswer) : List Output :=
  [.select (Config.muxAddr idx), .adcRead (sensorRead idx) a] ++
    (match a with
     | .ok _ => []
     | .fail => [.diag (.adcFail idx)])

/-- The two response bytes of a value, low part first (42_get.md R167). -/
def valueOutputs (v : Val) : List Output := [.tx (dataByte (enc v).1), .tx (dataByte (enc v).2)]

/-- The value a GET of a range from `start` up returns for channel `idx` (42_get.md R152 to R159): a register of the
state before the GET, or the quantised answer to the read whose turn it is. -/
def getValue (start : Nat) (s : State) (idx : Nat) : Val :=
  match kind idx with
  | .actuator ch => s.pulse[ch.val]
  | .touch => ((answerAt s (sensorsBetween start idx)).map (answerValue (sensorRead idx))).getD faultSlot
  | .current => ((answerAt s (sensorsBetween start idx)).map (answerValue (sensorRead idx))).getD faultSlot
  | .voltage => ((answerAt s (sensorsBetween start idx)).map (answerValue (sensorRead idx))).getD faultSlot
  | .relay => levelValue s.enable
  | .auxiliary 0 => levelValue s.aux1
  | .auxiliary 1 => levelValue s.aux2
  | .invalid => faultSlot

/-- What an actuator slot does before its two bytes: one read of its pulse cell (42_get.md R153; 43_gate.md R190). -/
def pulseReads (s : State) (idx : Nat) : List Output :=
  if h : idx < 18 then [.getPulse ⟨idx, h⟩ s.pulse[idx]] else []

/-- What one slot of such a GET puts out: an actuator slot's read of its cell, a sensor slot's select and read, then the
value's two bytes. -/
def getSlotOutputs (start : Nat) (s : State) (idx : Nat) : List Output :=
  pulseReads s idx ++
    (if (kind idx).isSensor then ((answerAt s (sensorsBetween start idx)).map (sensorOutputs idx)).getD [] else []) ++
    valueOutputs (getValue start s idx)

/-- The three bytes of the echo (42_get.md R151). -/
def echoOutputs (start count : Field) : List Output :=
  [.tx Config.cmdGet, .tx (dataByte start), .tx (dataByte count)]

/-- What the slots of a GET put out: slot after slot, channels ascending (20_memory.md R61; 42_get.md R150). -/
def slotOutputs (start count : Nat) (s : State) : List Output :=
  (List.range' start count).flatMap (getSlotOutputs start s)

/-- The environment after the block has read `n` ADC answers. -/
def Env.afterReads (e : Env) (n : Nat) : Env :=
  { e with adcScript := e.adcScript.drop n, adcDraws := e.adcDraws + (n - e.adcScript.length) }

/-- The state after the slots of a GET, field by field (42_get.md R150 to R159); the framer is left as it was. -/
structure GetEffect (start count : Nat) (s t : State) : Prop where
  pulse  : t.pulse = s.pulse
  enable : t.enable = s.enable
  aux1   : t.aux1 = s.aux1
  aux2   : t.aux2 = s.aux2
  linkUp : t.linkUp = s.linkUp
  muxSel : t.muxSel = if sensorsBetween start (start + count) = 0 then s.muxSel
             else some (Config.muxAddr (min (start + count) 26 - 1))
  env    : t.env = s.env.afterReads (sensorsBetween start (start + count))

end Sys2Proof.Machine
end

