-- ==== Sys2Proof/Certificates/Slice0/Obligations.lean ====
section
/-! DEFINITION. The statements for the provers. `nextEvent s = (e, u)` says that the environment's next input event is
`e`; `u` is `s` with that event taken, and differs from `s` in `env` alone (EventsTakenInOrder). -/

open Sys2Proof Sys2Proof.Machine

/-! ## Encoding -/

/-- Packets written out byte by byte from 30_encoding.md R73, R74, R78, R84 and R86 decode to what they stand for. -/
def Obligations.SpecPacketsDecode : Prop :=
  decode [0xD3, 0x00, 0x01, 0x5C, 0x0B] = .ok (.set 0 [1500], []) ∧
  decode [0xD3, 0x1A, 0x01, 0x00, 0x01] = .ok (.set 26 [128], []) ∧
  decode [0xC7, 0x18, 0x01, 0x7F] = .ok (.get 24 1, [0x7F]) ∧
  decode [0xD2, 0x00, 0x00] = .error (.badCommand 0xD2) ∧
  decode [0xC7, 0x1D, 0x00] = .error (.rangeInvalid 29 0)

/-- 30_encoding.md R82. -/
def Obligations.CodecRoundTrips : Prop :=
  (∀ v : Val, dec (enc v).1 (enc v).2 = v) ∧ ∀ b1 b2 : Field, enc (dec b1 b2) = (b1, b2)

/-- Every well-formed command is read back from its bytes, whatever follows them (30_encoding.md R73, R74, R79). -/
def Obligations.DecodeOfEncodeIsInstruction : Prop :=
  ∀ (i : Instr) (rest : List Byte), i.wf = true → decode (encode i ++ rest) = .ok (i, rest)

/-- What the decoder accepts is the encoding of a well-formed command: no word has a second meaning. -/
def Obligations.DecodeAcceptsOnlyEncodings : Prop :=
  ∀ (bytes rest : List Byte) (i : Instr), decode bytes = .ok (i, rest) → i.wf = true ∧ bytes = encode i ++ rest

/-- Bytes that start no packet are rejected by name (30_encoding.md R84, R85, R87). -/
def Obligations.IllegalBytesRejected : Prop :=
  ∀ (b c : Byte) (rest : List Byte),
    (isCommand b = false → decode (b :: rest) = .error (.dataByteFirst b)) ∧
    (isCommand b = true → b ≠ 0xD3 → b ≠ 0xC7 → decode (b :: rest) = .error (.badCommand b)) ∧
    (isCommand c = true → decode (0xD3 :: c :: rest) = .error (.commandByteInside c) ∧
      decode (0xC7 :: c :: rest) = .error (.commandByteInside c))

/-- The bytes of each pseudo-command's expansion (30_encoding.md R91). -/
def Obligations.PseudoCommandsExpand : Prop :=
  encode (expand .enable) = [0xD3, 0x1A, 0x01, 0x01, 0x00] ∧
  encode (expand .disable) = [0xD3, 0x1A, 0x01, 0x00, 0x00] ∧
  (∀ (ch : Fin 18) (v : Val), encode (expand (.pulse ch v)) =
    [0xD3, BitVec.ofNat 8 ch.val, 0x01, (v.extractLsb' 0 7).setWidth 8, (v.extractLsb' 7 7).setWidth 8]) ∧
  (∀ b : Bool, encode (expand (.aux 0 b)) = [0xD3, 0x1B, 0x01, if b then 0x01 else 0x00, 0x00] ∧
    encode (expand (.aux 1 b)) = [0xD3, 0x1C, 0x01, if b then 0x01 else 0x00, 0x00]) ∧
  (∀ ch : Field, encode (expand (.read ch)) = [0xC7, ch.setWidth 8, 0x01]) ∧
  encode (expand .nop) = [0xD3, 0x00, 0x00]

/-! ## Channels -/

/-- 20_memory.md R41: the classification function, with no overlap and nothing left out. -/
def Obligations.ChannelPartition : Prop :=
  ∀ idx : Nat,
    ((∃ ch, kind idx = .actuator ch) ↔ idx ≤ 17) ∧ (∀ ch : Fin 18, kind ch.val = .actuator ch) ∧
    (kind idx = .touch ↔ 18 ≤ idx ∧ idx ≤ 23) ∧ (kind idx = .current ↔ idx = 24) ∧
    (kind idx = .voltage ↔ idx = 25) ∧ (kind idx = .relay ↔ idx = 26) ∧
    (kind idx = .auxiliary 0 ↔ idx = 27) ∧ (kind idx = .auxiliary 1 ↔ idx = 28) ∧
    (kind idx = .invalid ↔ 29 ≤ idx)

/-- The channel map (20_memory.md R43 to R47): an entry for 0 to 28 and no other, tagged as the kind says, and no two
channels share a resource. -/
def Obligations.ChannelMapInjective : Prop :=
  (∀ idx, channelMap idx = none ↔ 29 ≤ idx) ∧
  (∀ idx, (∃ p, channelMap idx = some (.actuator p)) ↔ idx ≤ 17) ∧
  (∀ idx, (∃ a, channelMap idx = some (.muxSensor a)) ↔ 18 ≤ idx ∧ idx ≤ 25) ∧
  (∀ idx, (∃ a, channelMap idx = some (.gpio a)) ↔ 26 ≤ idx ∧ idx ≤ 28) ∧
  ∀ i j, i ≤ 28 → channelMap i = channelMap j → i = j

/-! ## Reset and the environment -/

/-- 70_reset_and_hazards.md R241, row by row (the rows that say don't care state nothing), and 10_state.md R19. -/
def Obligations.ResetState : Prop :=
  State.reset.enable = false ∧ State.reset.relayPin = false ∧
  State.reset.aux1 = false ∧ State.reset.aux2 = false ∧
  State.reset.gpio (Config.gpioPin 26) = some false ∧ State.reset.gpio (Config.gpioPin 27) = some false ∧
  State.reset.gpio (Config.gpioPin 28) = some false ∧
  State.reset.pwmActive = false ∧ (∀ p, State.reset.pwmOut p = .deasserted) ∧
  (∀ ch : Fin 18, State.reset.pulse[ch.val] = Config.pulseReset ch) ∧
  (∀ ch : Fin 18, State.reset.pwmWidth (Config.pwmIndex ch) = Config.pulseReset ch) ∧
  State.reset.muxSel = none ∧ State.reset.linkUp = false ∧ State.reset.framer.fsm = .idle ∧
  State.reset.txStream = [] ∧ State.reset.diags = []

/-- The invariants hold after reset (10_state.md R33). -/
def Obligations.ResetMeetsInvariant : Prop :=
  State.reset.Inv ∧ Responses State.reset.txStream

/-- Every step keeps the invariant of 10_state.md R33 (with R24, R26, R103, R215). -/
def Obligations.StepKeepsInvariant : Prop :=
  ∀ s t : State, s.Inv → step s = .next t → t.Inv

/-- Every step keeps the outbound stream a sequence of whole responses (42_get.md R169; 40_framer.md R123). -/
def Obligations.StepKeepsWholeResponses : Prop :=
  ∀ s t : State, Responses s.txStream → step s = .next t → Responses t.txStream

/-- Listed input events are taken in order, one a step, and taking one changes nothing of the block (40_framer.md
R101). With none listed the event is a free value (log entry 2). -/
def Obligations.EventsTakenInOrder : Prop :=
  (∀ (s : State) (e : InputEvent) (rest : List InputEvent), s.env.inbox = e :: rest →
    nextEvent s = (e, { s with env := { s.env with inbox := rest } })) ∧
  ∀ s : State, ∃ env, (nextEvent s).2 = { s with env := env } ∧ env.adcScript = s.env.adcScript ∧
    env.adcDraws = s.env.adcDraws

/-- While the link is down a `Byte` or `Timeout` that is offered has no effect (40_framer.md R103; the model's choice:
log entry 3). -/
def Obligations.NothingPulledWhileLinkDown : Prop :=
  ∀ (s u : State) (e : InputEvent), nextEvent s = (e, u) → s.linkUp = false →
    (e = .timeout ∨ ∃ b, e = .byte b) → step s = .next u

/-- 40_framer.md R102. -/
def Obligations.LinkReadySetsLinkUp : Prop :=
  ∀ s u : State, nextEvent s = (.linkReady, u) →
    step s = .next { u with linkUp := true } ∧ (s.linkUp = true → step s = .next u)

/-- The reset input puts every register at its reset value; what was sent before stays sent (70_reset_and_hazards.md
R240, R241; the model's choice: log entry 13). -/
def Obligations.ResetInputResets : Prop :=
  ∀ s u : State, nextEvent s = (.rst, u) → ∃ t, step s = .next t ∧
    t.pulse = State.reset.pulse ∧ t.enable = State.reset.enable ∧ t.aux1 = State.reset.aux1 ∧
    t.aux2 = State.reset.aux2 ∧ t.muxSel = State.reset.muxSel ∧ t.linkUp = State.reset.linkUp ∧
    t.framer = State.reset.framer ∧ t.out = s.out ∧ t.env = u.env

/-! ## The framer -/

/-- 40_framer.md R105 and R107: in `IDLE` a data byte and a timeout change nothing. -/
def Obligations.IdleIgnoresDataAndTimeouts : Prop :=
  ∀ (s u : State) (e : InputEvent), nextEvent s = (e, u) → s.linkUp = true → s.framer.fsm = .idle →
    (e = .timeout ∨ ∃ d, isCommand d = false ∧ e = .byte d) → step s = .next u

/-- 40_framer.md R106. -/
def Obligations.CommandByteStartsPacket : Prop :=
  ∀ s u : State, s.linkUp = true → s.framer.fsm = .idle →
    (nextEvent s = (.byte 0xD3, u) →
      step s = .next { u with framer := { s.framer with cmd := .set, fsm := .hdrStart } }) ∧
    (nextEvent s = (.byte 0xC7, u) →
      step s = .next { u with framer := { s.framer with cmd := .get, fsm := .hdrStart } })

/-- 40_framer.md R110 with R111: in every state; `F_RESYNC` first when a packet was in progress. -/
def Obligations.IllegalCommandByteFaults : Prop :=
  ∀ (s u : State) (c : Byte), nextEvent s = (.byte c, u) → s.linkUp = true → isCommand c = true →
    c ≠ 0xD3 → c ≠ 0xC7 →
    step s = .next { u with
      framer := { s.framer with fsm := .idle }
      out := s.out ++ resyncOutputs s.framer.fsm ++ [.diag (.badCmd c)] }

/-- 40_framer.md R111: the packet in progress is abandoned, and in the same step the byte starts a new packet or raises
`F_BADCMD`. -/
def Obligations.CommandByteAbandonsPacket : Prop :=
  ∀ s u : State, s.linkUp = true → s.framer.fsm ≠ .idle →
    (nextEvent s = (.byte 0xD3, u) → step s = .next { u with
      framer := { s.framer with cmd := .set, fsm := .hdrStart }
      out := s.out ++ [.diag (.resync s.framer.fsm)] }) ∧
    (nextEvent s = (.byte 0xC7, u) → step s = .next { u with
      framer := { s.framer with cmd := .get, fsm := .hdrStart }
      out := s.out ++ [.diag (.resync s.framer.fsm)] }) ∧
    ∀ c : Byte, isCommand c = true → c ≠ 0xD3 → c ≠ 0xC7 → nextEvent s = (.byte c, u) → step s = .next { u with
      framer := { s.framer with fsm := .idle }
      out := s.out ++ [.diag (.resync s.framer.fsm), .diag (.badCmd c)] }

/-- 40_framer.md R112. -/
def Obligations.HeaderTimeoutAbandonsPacket : Prop :=
  ∀ s u : State, nextEvent s = (.timeout, u) → s.linkUp = true →
    (s.framer.fsm = .hdrStart ∨ s.framer.fsm = .hdrCount) →
    step s = .next { u with framer := { s.framer with fsm := .idle }, out := s.out ++ [.diag .hdrTimeout] }

/-- 40_framer.md R118. -/
def Obligations.PayloadTimeoutAbandonsPacket : Prop :=
  ∀ s u : State, nextEvent s = (.timeout, u) → s.linkUp = true →
    (s.framer.fsm = .payLo ∨ s.framer.fsm = .payHi) →
    step s = .next { u with
      framer := { s.framer with fsm := .idle }
      out := s.out ++ [.diag (.payTimeout s.framer.k.toNat)] }

/-- 40_framer.md R108. -/
def Obligations.StartByteLatched : Prop :=
  ∀ (s u : State) (d : Byte), nextEvent s = (.byte d, u) → s.linkUp = true → isCommand d = false →
    s.framer.fsm = .hdrStart →
    step s = .next { u with framer := { s.framer with start := d.extractLsb' 0 7, fsm := .hdrCount } }

/-- 40_framer.md R113: the sum is taken in the natural numbers, without wrap. -/
def Obligations.RangeFaultDropsPacket : Prop :=
  ∀ (s u : State) (d : Byte), nextEvent s = (.byte d, u) → s.linkUp = true → isCommand d = false →
    s.framer.fsm = .hdrCount →
    ¬ (s.framer.start.toNat ≤ 28 ∧ s.framer.start.toNat + d.toNat ≤ 29) →
    step s = .next { u with
      framer := { s.framer with fsm := .idle }
      out := s.out ++ [.diag (.range s.framer.start.toNat d.toNat)] }

/-- 40_framer.md R109. -/
def Obligations.CountByteAwaitsPayload : Prop :=
  ∀ (s u : State) (d : Byte), nextEvent s = (.byte d, u) → s.linkUp = true → isCommand d = false →
    s.framer.fsm = .hdrCount → s.framer.cmd = .set → 1 ≤ d.toNat →
    s.framer.start.toNat ≤ 28 → s.framer.start.toNat + d.toNat ≤ 29 →
    step s = .next { u with framer := { s.framer with count := d.extractLsb' 0 7, k := 0, fsm := .payLo } }

/-- 40_framer.md R115. -/
def Obligations.EmptySetChangesNothing : Prop :=
  ∀ s u : State, nextEvent s = (.byte 0x00, u) → s.linkUp = true → s.framer.fsm = .hdrCount →
    s.framer.cmd = .set → s.framer.start.toNat ≤ 28 →
    step s = .next { u with framer := { s.framer with count := 0, fsm := .idle } }

/-- 40_framer.md R114: a GET is dispatched in the step of its third byte; with `count = 0` the response is the echo
alone. -/
def Obligations.GetHeaderDispatches : Prop :=
  ∀ (s u : State) (d : Byte), nextEvent s = (.byte d, u) → s.linkUp = true → isCommand d = false →
    s.framer.fsm = .hdrCount → s.framer.cmd = .get →
    s.framer.start.toNat ≤ 28 → s.framer.start.toNat + d.toNat ≤ 29 →
    step s = exec (.get s.framer.start (d.extractLsb' 0 7))
      { u with framer := { s.framer with count := d.extractLsb' 0 7 } } ∧
    (∀ t, step s = .next t → t.framer.fsm = .idle) ∧
    (d = 0 → ∃ t, step s = .next t ∧ t.txStream = s.txStream ++ [0xC7, dataByte s.framer.start, 0x00])

/-- 40_framer.md R116. -/
def Obligations.LowByteLatched : Prop :=
  ∀ (s u : State) (d : Byte), nextEvent s = (.byte d, u) → s.linkUp = true → isCommand d = false →
    s.framer.fsm = .payLo →
    step s = .next { u with framer := { s.framer with lo := d.extractLsb' 0 7, fsm := .payHi } }

/-- 40_framer.md R117, in the states of the invariant: the value is stored; the last one dispatches the SET and ends in
`IDLE`, any other moves on to the next value. -/
def Obligations.HighByteStoresOrDispatches : Prop :=
  ∀ (s u : State) (d : Byte) (buf : Vector Val 29), nextEvent s = (.byte d, u) → s.linkUp = true →
    isCommand d = false → s.framer.Sound → s.framer.fsm = .payHi →
    (∀ (j : Nat) (hj : j < 29), buf[j] = if j = s.framer.k.toNat then dec s.framer.lo (d.extractLsb' 0 7)
      else s.framer.buf[j]) →
    (s.framer.k.toNat + 1 < s.framer.count.toNat → ∃ k : BitVec 5, k.toNat = s.framer.k.toNat + 1 ∧
      step s = .next { u with framer := { s.framer with buf := buf, k := k, fsm := .payLo } }) ∧
    (s.framer.k.toNat + 1 = s.framer.count.toNat →
      step s = exec (.set s.framer.start (buf.toList.take s.framer.count.toNat))
        { u with framer := { s.framer with buf := buf } } ∧
      ∃ t, step s = .next t ∧ t.framer.fsm = .idle)

/-! ## A step runs the decoded packet -/

/-- When the bytes pulled so far and the next byte decode to a command, the step is `exec` of that command, at the
state with the byte taken and latched (40_framer.md R100, R114, R115, R117, R120). -/
def Obligations.StepRunsDecodedPacket : Prop :=
  ∀ (s u : State) (b : Byte) (i : Instr), s.framer.Sound → s.linkUp = true → nextEvent s = (.byte b, u) →
    decode (s.framer.pulled ++ [b]) = .ok (i, []) →
    step s = exec i { u with framer := s.framer.latch b }

/-- A word of the command table placed by `withFetchWord` is what the next step runs, whatever the state was, with
nothing else disturbed (the model's loading of a packet: log entry 21). -/
def Obligations.PlacedWordIsRun : Prop :=
  ∀ (s : State) (nbits w : Nat) (i : Instr), decodeTableWord nbits w = some i →
    ∃ f, step (s.withFetchWord nbits w) = exec i { s with linkUp := true, framer := f }

/-- 40_framer.md R122: from every state with the link up, the bytes of one well-formed packet are framed and that
packet is dispatched; what preceded adds at most one `F_RESYNC`; the framer ends in `IDLE`. -/
def Obligations.ResyncRunsWholePacket : Prop :=
  ∀ (s : State) (i : Instr) (rest : List InputEvent), s.linkUp = true → i.wf = true →
    s.env.inbox = (encode i).map .byte ++ rest →
    ∃ f, Host.Core.run Sys2Proof.core (encode i).length s =
        exec i { s with
          framer := f
          out := s.out ++ resyncOutputs s.framer.fsm
          env := { s.env with inbox := rest } } ∧
      ∀ t, Host.Core.run Sys2Proof.core (encode i).length s = .next t → t.framer.fsm = .idle

/-! ## Whole-machine rules -/

/-- 40_framer.md R121: a step that raises a packet fault changes none of these registers and sends no byte. -/
def Obligations.PacketFaultHasNoEffect : Prop :=
  ∀ (s t : State) (d : Diag) (news : List Output), step s = .next t → t.out = s.out ++ news → .diag d ∈ news →
    d.code ≤ 5 →
    t.pulse = s.pulse ∧ t.enable = s.enable ∧ t.aux1 = s.aux1 ∧ t.aux2 = s.aux2 ∧ t.muxSel = s.muxSel ∧
      t.txStream = s.txStream

/-- 40_framer.md R123: the only steps that send bytes are those that dispatch a GET. -/
def Obligations.OnlyGetDispatchSends : Prop :=
  ∀ s t : State, step s = .next t → t.txStream ≠ s.txStream →
    s.linkUp = true ∧ s.framer.fsm = .hdrCount ∧ s.framer.cmd = .get ∧
      ∃ d u, nextEvent s = (.byte d, u) ∧ isCommand d = false ∧ s.framer.start.toNat ≤ 28 ∧
        s.framer.start.toNat + d.toNat ≤ 29

/-- 10_state.md R18 and R21, 43_gate.md R187: a digital latch changes only by a SET slot on its own channel, or by
reset. -/
def Obligations.LatchesChangeOnlyByTheirSlots : Prop :=
  ∀ s t : State, step s = .next t →
    (t.enable ≠ s.enable → (nextEvent s).1 = .rst ∨ DispatchesSetOn s 26) ∧
    (t.aux1 ≠ s.aux1 → (nextEvent s).1 = .rst ∨ DispatchesSetOn s 27) ∧
    (t.aux2 ≠ s.aux2 → (nextEvent s).1 = .rst ∨ DispatchesSetOn s 28)

/-- 10_state.md R14: nothing but a SET slot on channel i, or reset, changes `pulse[i]`. -/
def Obligations.PulseChangesOnlyByItsSlot : Prop :=
  ∀ (s t : State) (ch : Fin 18), step s = .next t → t.pulse[ch.val] ≠ s.pulse[ch.val] →
    (nextEvent s).1 = .rst ∨ DispatchesSetOn s ch.val

/-- No step is ever refused (60_exceptions.md R231), and the only stop is an ADC read the environment never answers
(R213, R230): where every listed answer comes, every step has a next state. -/
def Obligations.StepStopsOnlyOnUnansweredRead : Prop :=
  ∀ s : State, (∀ r, step s ≠ .refused r) ∧ (none ∉ s.env.adcScript → ∃ t, step s = .next t)

/-! ## SET -/

/-- SET completes on every range inside the channel map, with the effect of 41_set.md R130, R132 to R139 on every
field of the state: channels it does not cover keep their value. -/
def Obligations.SetCompletesWithItsEffect : Prop :=
  ∀ (start : Field) (values : List Val) (s : State), (Instr.set start values).wf = true →
    ∃ t, exec (.set start values) s = .next t ∧ SetEffect start.toNat values s t ∧
      t.framer = { s.framer with fsm := .idle }

/-- 41_set.md R133: the store happens whatever `enable` is, unclamped; the width follows at the port, and the output
carries it only while enabled. -/
def Obligations.SetActuatorStores : Prop :=
  ∀ (start : Field) (ch : Fin 18) (v : Val) (s : State), start.toNat = ch.val →
    ∃ t, exec (.set start [v]) s = .next t ∧
      t = { s with
        pulse := s.pulse.set ch.val v
        out := s.out ++ [.pulse ch v]
        framer := { s.framer with fsm := .idle } } ∧
      t.pulse[ch.val] = v ∧ t.pwmWidth (Config.pwmIndex ch) = v ∧
      t.pwmOut (Config.pwmIndex ch) = (if s.enable = true then .pulse v else .deasserted) ∧
      ∀ p, p ≠ Config.pwmIndex ch → t.pwmWidth p = s.pwmWidth p

/-- 41_set.md R134: a SET slot on a sensor channel writes nothing and raises `N_SET_RO`; the dispatch continues with
the next slot. -/
def Obligations.SetSensorIsSkipped : Prop :=
  ∀ (idx : Nat) (v : Val) (rest : List Val) (s : State), 18 ≤ idx → idx ≤ 25 →
    dispatchSet idx (v :: rest) s = dispatchSet (idx + 1) rest { s with out := s.out ++ [.diag (.setRo idx)] }

/-- 41_set.md R135 and 43_gate.md R187: one slot on channel 26 moves the flag, the relay pin and all 18 PWM outputs
together, and leaves the pulses. -/
def Obligations.SetRelayGatesAllOutputs : Prop :=
  ∀ (v : Val) (s : State), ∃ t, exec (.set 26 [v]) s = .next t ∧
    t = { s with
      enable := decide (v ≠ 0)
      out := s.out ++ [.enable (decide (v ≠ 0))]
      framer := { s.framer with fsm := .idle } } ∧
    t.relayPin = decide (v ≠ 0) ∧ t.gpio (Config.gpioPin 26) = some (decide (v ≠ 0)) ∧
    (v ≠ 0 → ∀ ch : Fin 18, t.pwmOut (Config.pwmIndex ch) = .pulse s.pulse[ch.val]) ∧
    (v = 0 → ∀ p, t.pwmOut p = .deasserted)

/-- 41_set.md R136: one latch and its pin, nothing else. -/
def Obligations.SetAuxiliaryDrivesItsPin : Prop :=
  ∀ (v : Val) (s : State),
    (∃ t, exec (.set 27 [v]) s = .next t ∧
      t = { s with
        aux1 := decide (v ≠ 0)
        out := s.out ++ [.aux1 (decide (v ≠ 0))]
        framer := { s.framer with fsm := .idle } } ∧
      t.gpio (Config.gpioPin 27) = some (decide (v ≠ 0))) ∧
    (∃ t, exec (.set 28 [v]) s = .next t ∧
      t = { s with
        aux2 := decide (v ≠ 0)
        out := s.out ++ [.aux2 (decide (v ≠ 0))]
        framer := { s.framer with fsm := .idle } } ∧
      t.gpio (Config.gpioPin 28) = some (decide (v ≠ 0)))

/-- SET's frame: channels outside its range keep their value, and nothing but the framer's position and the outputs
changes beside them; no byte is sent (41_set.md R139). -/
def Obligations.SetFrame : Prop :=
  ∀ (start : Field) (values : List Val) (s t : State), exec (.set start values) s = .next t →
    (∀ ch : Fin 18, ¬ (start.toNat ≤ ch.val ∧ ch.val < start.toNat + values.length) →
      t.pulse[ch.val] = s.pulse[ch.val]) ∧
    (¬ (start.toNat ≤ 26 ∧ 26 < start.toNat + values.length) → t.enable = s.enable) ∧
    (¬ (start.toNat ≤ 27 ∧ 27 < start.toNat + values.length) → t.aux1 = s.aux1) ∧
    (¬ (start.toNat ≤ 28 ∧ 28 < start.toNat + values.length) → t.aux2 = s.aux2) ∧
    t.muxSel = s.muxSel ∧ t.linkUp = s.linkUp ∧ t.env = s.env ∧ t.txStream = s.txStream ∧
    t.framer = { s.framer with fsm := .idle }

/-! ## GET -/

/-- GET completes on every range inside the channel map whose ADC reads are answered, with the effect of 42_get.md R150
to R167: the echo, then per slot its select, read and two bytes, channels ascending (20_memory.md R61). -/
def Obligations.GetCompletesWithItsEffect : Prop :=
  ∀ (start count : Field) (s : State), (Instr.get start count).wf = true →
    Answered s (sensorsBetween start.toNat (start.toNat + count.toNat)) →
    ∃ t, exec (.get start count) s = .next t ∧ GetEffect start.toNat count.toNat s t ∧
      t.framer = { s.framer with fsm := .idle } ∧
      t.out = s.out ++ echoOutputs start count ++ slotOutputs start.toNat count.toNat s

/-- 42_get.md R153 and R154: the stored pulse, whatever `enable` is; no register changes. In the call view the slot is
one `get_pulse` (43_gate.md R190). -/
def Obligations.GetActuatorReturnsStored : Prop :=
  ∀ (start : Field) (ch : Fin 18) (b : Bool) (s : State), start.toNat = ch.val →
    ∃ t, exec (.get start 1) { s with enable := b } = .next t ∧
      t = { s with
        enable := b
        out := s.out ++ [.tx 0xC7, .tx (dataByte start), .tx 0x01, .getPulse ch s.pulse[ch.val],
          .tx (dataByte (s.pulse[ch.val].extractLsb' 0 7)), .tx (dataByte (s.pulse[ch.val].extractLsb' 7 7))]
        framer := { s.framer with fsm := .idle } } ∧
      t.calls = s.calls ++ [.getPulse (Config.pwmIndex ch) s.pulse[ch.val]]

/-- 42_get.md R159: a digital channel returns its latch as 0 or 1, with no side effect. -/
def Obligations.GetDigitalReturnsLatch : Prop :=
  ∀ s : State,
    exec (.get 26 1) s = .next { s with
      out := s.out ++ [.tx 0xC7, .tx 0x1A, .tx 0x01, .tx (if s.enable = true then 0x01 else 0x00), .tx 0x00]
      framer := { s.framer with fsm := .idle } } ∧
    exec (.get 27 1) s = .next { s with
      out := s.out ++ [.tx 0xC7, .tx 0x1B, .tx 0x01, .tx (if s.aux1 = true then 0x01 else 0x00), .tx 0x00]
      framer := { s.framer with fsm := .idle } } ∧
    exec (.get 28 1) s = .next { s with
      out := s.out ++ [.tx 0xC7, .tx 0x1C, .tx 0x01, .tx (if s.aux2 = true then 0x01 else 0x00), .tx 0x00]
      framer := { s.framer with fsm := .idle } }

/-- 42_get.md R155, R156, R157 (with R166 for a failed read): select, one read, then the quantised value or
`FAULT_SLOT`. -/
def Obligations.GetSensorSelectsThenReads : Prop :=
  ∀ (start : Field) (s : State), 18 ≤ start.toNat → start.toNat ≤ 25 →
    (∀ x : Rat, answerAt s 0 = some (.ok x) →
      exec (.get start 1) s = .next { s with
        muxSel := some (Config.muxAddr start.toNat)
        env := s.env.afterReads 1
        out := s.out ++ [.tx 0xC7, .tx (dataByte start), .tx 0x01, .select (Config.muxAddr start.toNat),
          .adcRead (if start = 24 then .current else .voltage) (.ok x)] ++
          valueOutputs (if start = 24 then quantiseCurrent x else quantiseVoltage x)
        framer := { s.framer with fsm := .idle } }) ∧
    (answerAt s 0 = some .fail →
      exec (.get start 1) s = .next { s with
        muxSel := some (Config.muxAddr start.toNat)
        env := s.env.afterReads 1
        out := s.out ++ [.tx 0xC7, .tx (dataByte start), .tx 0x01, .select (Config.muxAddr start.toNat),
          .adcRead (if start = 24 then .current else .voltage) .fail, .diag (.adcFail start.toNat),
          .tx 0x7F, .tx 0x7F]
        framer := { s.framer with fsm := .idle } })

/-- 42_get.md R169: what a GET sends is one whole response, 7-bit clean after its first byte, of length `3 + 2 * count`,
failed reads or not. -/
def Obligations.GetSendsOneWholeResponse : Prop :=
  ∀ (start count : Field) (s t : State), (Instr.get start count).wf = true → exec (.get start count) s = .next t →
    ∃ values : List Val, values.length = count.toNat ∧ t.txStream = s.txStream ++ response start count values ∧
      (response start count values).length = 3 + 2 * count.toNat ∧
      ∀ b ∈ (response start count values).tail, isCommand b = false

/-- GET's frame: no register the host can set changes; `mux_sel` changes only if a sensor channel is in a valid range
(42_get.md R150; 20_memory.md R54). -/
def Obligations.GetFrame : Prop :=
  ∀ (start count : Field) (s t : State), exec (.get start count) s = .next t →
    t.pulse = s.pulse ∧ t.enable = s.enable ∧ t.aux1 = s.aux1 ∧ t.aux2 = s.aux2 ∧ t.linkUp = s.linkUp ∧
    t.framer = { s.framer with fsm := .idle } ∧ t.env.inbox = s.env.inbox ∧ t.env.envDraws = s.env.envDraws ∧
    ((start.toNat + count.toNat ≤ 18 ∨ 26 ≤ start.toNat ∨ count = 0 ∨ 29 < start.toNat + count.toNat) →
      t.muxSel = s.muxSel ∧ t.env = s.env)

/-- 93_implementation_defined.md S1 (60_exceptions.md R230): a GET is stuck exactly when one of its reads is never
answered. -/
def Obligations.UnansweredReadIsStuck : Prop :=
  ∀ (start count : Field) (s : State), (Instr.get start count).wf = true →
    (exec (.get start count) s = .fault .adcNoAnswer ↔
      ¬ Answered s (sensorsBetween start.toNat (start.toNat + count.toNat)))

/-- A command whose range leaves the channel map raises `F_RANGE` and does nothing else (40_framer.md R113, 20_memory.md
R51; `exec` on such a command: log entry 14). -/
def Obligations.OutOfRangeCommandIsDropped : Prop :=
  ∀ (i : Instr) (s : State), i.wf = false →
    exec i s = .next { s with
      framer := { s.framer with fsm := .idle }
      out := s.out ++ [.diag (.range i.start.toNat i.slots)] }

/-- 42_get.md R171: what a SET stores is what a following GET returns, for every channel that is no sensor, enabled or
not. -/
def Obligations.GetReturnsLastSet : Prop :=
  ∀ (start : Field) (v : Val) (s t : State), exec (.set start [v]) s = .next t →
    (start.toNat ≤ 17 → ∃ u, exec (.get start 1) t = .next u ∧
      u.txStream = s.txStream ++ response start 1 [v]) ∧
    (26 ≤ start.toNat → start.toNat ≤ 28 → ∃ u, exec (.get start 1) t = .next u ∧
      u.txStream = s.txStream ++ response start 1 [if v = 0 then 0 else 1])

/-! ## Ports -/

/-- 43_gate.md R182, R183: the PWM port of each output, and no output but these. -/
def Obligations.PwmPortFollowsRegisters : Prop :=
  ∀ s : State, s.pwmActive = s.enable ∧
    (∀ ch : Fin 18, s.pwmWidth (Config.pwmIndex ch) = s.pulse[ch.val]) ∧
    (∀ ch : Fin 18, s.pwmOut (Config.pwmIndex ch) =
      if s.enable = true then .pulse s.pulse[ch.val] else .deasserted) ∧
    ∀ p : Fin 18, ∃ ch, Config.pwmIndex ch = p

/-- 43_gate.md R185, R186: the three pins. -/
def Obligations.PinsFollowLatches : Prop :=
  ∀ s : State, s.gpio (Config.gpioPin 26) = some s.enable ∧ s.gpio (Config.gpioPin 27) = some s.aux1 ∧
    s.gpio (Config.gpioPin 28) = some s.aux2

/-- 60_exceptions.md R215: in the states of the invariant the mode is decided by `link_up` and `enable`, and only
`WAIT_LINK` runs the idle indicator. -/
def Obligations.ModeFollowsLinkAndEnable : Prop :=
  ∀ s : State, s.Inv →
    (s.mode = .waitLink ↔ s.linkUp = false) ∧ (s.mode = .waitLink → s.enable = false ∧ ∀ p, s.pwmOut p = .deasserted) ∧
    (s.mode = .runDisabled ↔ s.linkUp = true ∧ s.enable = false) ∧
    (s.mode = .runEnabled ↔ s.linkUp = true ∧ s.enable = true) ∧
    (s.idleIndicatorRun = true ↔ s.mode = .waitLink)

/-- The call view of a SET slot's register write (43_gate.md R190; log entry 12). That the gate call comes before the pin
write on channel 26, and that it is made whatever `enable` was, is the model's choice (log entries 27 and 28). -/
def Obligations.SetSlotCalls : Prop :=
  ∀ v : Val,
    (∀ ch : Fin 18, (setSlotOutput ch.val v).flatMap Output.calls = [.setPulse (Config.pwmIndex ch) v]) ∧
    (∀ idx, 18 ≤ idx → idx ≤ 25 → (setSlotOutput idx v).flatMap Output.calls = []) ∧
    (setSlotOutput 26 v).flatMap Output.calls =
      [if v = 0 then .disableAll else .enableAll, .write (Config.gpioPin 26) (decide (v ≠ 0))] ∧
    ∀ idx, idx = 27 ∨ idx = 28 →
      (setSlotOutput idx v).flatMap Output.calls = [.write (Config.gpioPin idx) (decide (v ≠ 0))]

/-! ## Quantisation -/

/-- 42_get.md R163: nearest integer, and a tie goes to the integer farther from zero. -/
def Obligations.RoundsHalfAwayFromZero : Prop :=
  ∀ y : Rat, |(rnd y : Rat) - y| ≤ 1 / 2 ∧
    ∀ n : Int, (0 ≤ n → y = (n : Rat) + 1 / 2 → rnd y = n + 1) ∧ (n < 0 → y = (n : Rat) + 1 / 2 → rnd y = n)

/-- 42_get.md R164: the clamp. -/
def Obligations.SaturatesToFourteenBits : Prop :=
  ∀ n : Int, (n < 0 → sat14 n = 0) ∧ (16383 < n → (sat14 n).toNat = 16383) ∧
    (0 ≤ n → n ≤ 16383 → ((sat14 n).toNat : Int) = n)

/-- A host that decodes a response value with the shared constants (30_encoding.md R89) names a reading that the block
would quantise to that same value: voltage channels and the current channel. -/
def Obligations.QuantiserInvertsHostDecoding : Prop :=
  ∀ n : Val, quantiseVoltage (n.toNat * 33 / 10240) = n ∧ quantiseCurrent (((n.toNat : Rat) - 512) * 407 / 5000) = n

/-- A larger reading never gives a smaller value (the clamp and the rounding are monotone: D12). -/
def Obligations.QuantisersMonotone : Prop :=
  ∀ x y : Rat, x ≤ y → (quantiseVoltage x).toNat ≤ (quantiseVoltage y).toNat ∧
    (quantiseCurrent x).toNat ≤ (quantiseCurrent y).toNat
end

