-- ==== Sys2Proof/Laws/Channel.lean ====
section
/-! SUPPORT. Channel kinds (20_memory.md R40, R41). -/

namespace Sys2Proof.Machine

theorem kind_actuator (ch : Fin 18) : kind ch.val = .actuator ch := by simp [kind]

theorem kind_eq_actuator {idx : Nat} {ch : Fin 18} (h : kind idx = .actuator ch) : idx = ch.val := by
  unfold kind at h
  split at h
  · cases h; rfl
  · (repeat' split at h) <;> cases h

/-- Inside the channel map every index has a kind (R41, R47). -/
theorem kind_ne_invalid {idx : Nat} (h : idx ≤ 28) : kind idx ≠ .invalid := by
  have : ∀ i : Fin 29, kind i.val ≠ .invalid := by decide
  exact this ⟨idx, by omega⟩

/-- The three sensor kinds are channels 18 to 25. -/
theorem kind_isSensor (idx : Nat) : (kind idx).isSensor = true ↔ 18 ≤ idx ∧ idx ≤ 25 := by
  unfold kind
  repeat' split
  all_goals simp [Kind.isSensor]; try omega

/-- The cases of an index of the channel map, each with the index it stands for. -/
theorem kind_cases {idx : Nat} (h : idx ≤ 28) :
    (∃ ch : Fin 18, idx = ch.val ∧ kind idx = .actuator ch) ∨
    (18 ≤ idx ∧ idx ≤ 23 ∧ kind idx = .touch) ∨ (idx = 24 ∧ kind idx = .current) ∨
    (idx = 25 ∧ kind idx = .voltage) ∨ (idx = 26 ∧ kind idx = .relay) ∨
    (idx = 27 ∧ kind idx = .auxiliary 0) ∨ (idx = 28 ∧ kind idx = .auxiliary 1) := by
  rcases Nat.lt_or_ge idx 18 with h18 | h18
  · exact .inl ⟨⟨idx, h18⟩, rfl, by simp [kind, h18]⟩
  · rcases Nat.lt_or_ge idx 24 with h24 | h24
    · exact .inr (.inl ⟨h18, by omega, by simp [kind, Nat.not_lt.2 h18, h24]⟩)
    · have : idx = 24 ∨ idx = 25 ∨ idx = 26 ∨ idx = 27 ∨ idx = 28 := by omega
      rcases this with rfl | rfl | rfl | rfl | rfl <;> simp [kind]

end Sys2Proof.Machine
end

