-- ==== Sys2Proof/Laws/Codec.lean ====
section
/-! SUPPORT. Byte classes and the value codec (30_encoding.md R70, R80 to R82). -/

namespace Sys2Proof

@[simp] theorem fieldOf_dataByte (f : Field) : fieldOf (dataByte f) = f := by
  ext i hi
  simp [fieldOf, dataByte, show i < 8 by omega, BitVec.getLsbD_eq_getElem hi]

@[simp] theorem isCommand_dataByte (f : Field) : isCommand (dataByte f) = false := by
  simp [isCommand, dataByte]

/-- A data byte is its seven payload bits (R70). -/
theorem dataByte_fieldOf {b : Byte} (h : isCommand b = false) : dataByte (fieldOf b) = b := by
  ext i hi
  simp only [dataByte, fieldOf, BitVec.getElem_setWidth, BitVec.getLsbD_extractLsb']
  rcases Nat.lt_or_ge i 7 with h7 | h7
  · simp [h7, BitVec.getLsbD_eq_getElem hi]
  · obtain rfl : i = 7 := by omega
    simpa [isCommand, BitVec.getLsbD_eq_getElem hi] using h.symm

theorem dec_getLsbD (lo hi : Field) (i : Nat) :
    (dec lo hi).getLsbD i = (if i < 7 then lo.getLsbD i else hi.getLsbD (i - 7)) := by
  rcases Nat.lt_or_ge i 7 with h | h
  · simp [dec, h, Nat.lt_trans h (by decide : 7 < 14)]
  · rcases Nat.lt_or_ge i 14 with h14 | h14
    · simp [dec, Nat.not_lt.2 h, h14, BitVec.getLsbD_of_ge lo i h]
    · simp [dec, Nat.not_lt.2 h, h14, BitVec.getLsbD_of_ge hi (i - 7) (by omega)]

/-- Decoding undoes encoding (R82). -/
theorem dec_enc (v : Val) : dec (enc v).1 (enc v).2 = v := by
  apply BitVec.eq_of_getLsbD_eq
  intro i hi
  rw [dec_getLsbD]
  split
  · simp_all [enc]
  · simp_all [enc, show i - 7 < 7 by omega, show 7 + (i - 7) = i by omega]

/-- Encoding undoes decoding: no pair of data bytes is a second spelling of a value (R82). -/
theorem enc_dec (lo hi : Field) : enc (dec lo hi) = (lo, hi) := by
  refine Prod.ext ?_ ?_ <;> apply BitVec.eq_of_getLsbD_eq <;> intro i hi'
  · simp [enc, dec_getLsbD, hi']
  · simp [enc, dec_getLsbD, hi']

@[simp] theorem isCommand_cmdByte (c : Cmd) : isCommand (cmdByte c) = true := by cases c <;> rfl

@[simp] theorem cmdOf_cmdByte (c : Cmd) : cmdOf (cmdByte c) = some c := by cases c <;> rfl

theorem cmdOf_eq_some {b : Byte} {c : Cmd} (h : cmdOf b = some c) : b = cmdByte c := by
  unfold cmdOf at h
  split at h
  · cases h; assumption
  · split at h
    · cases h; assumption
    · cases h

theorem rangeValid_iff {start count : Nat} :
    rangeValid start count = true ↔ start ≤ 28 ∧ start + count ≤ 29 := by
  simp [rangeValid]

/-- The decoder's range check is the well-formedness of the command (R77, R113). -/
theorem Instr.wf_eq (i : Instr) : i.wf = rangeValid i.start.toNat i.slots := rfl

/-- Decoding a payload whose first values are known (R73, R78). -/
theorem decodeValues_append (vs : List Val) (bytes : List Byte) (n : Nat) :
    decodeValues (vs.length + n) (vs.flatMap valueBytes ++ bytes) =
      match decodeValues n bytes with
      | .ok (ws, rest) => .ok (vs ++ ws, rest)
      | .error e => .error e := by
  induction vs with
  | nil => simp; split <;> simp_all
  | cons v vs ih =>
    rw [List.length_cons, show vs.length + 1 + n = (vs.length + n) + 1 by omega]
    simp only [List.flatMap_cons, valueBytes, List.cons_append, List.nil_append, decodeValues]
    simp only [isCommand_dataByte, fieldOf_dataByte, ih, dec_enc, Bool.false_eq_true, if_false]
    split
    · next h => split at h <;> simp_all
    · next h => split at h <;> simp_all

end Sys2Proof
end

