-- ==== Sys2Proof/Laws/State.lean ====
section
/-! SUPPORT. One lemma per field per update, each true by unfolding the update once. -/

namespace Sys2Proof.Machine

section Emit
variable (s : State) (o : Output)
@[simp] theorem State.emit_pulse : (s.emit o).pulse = s.pulse := rfl
@[simp] theorem State.emit_enable : (s.emit o).enable = s.enable := rfl
@[simp] theorem State.emit_aux1 : (s.emit o).aux1 = s.aux1 := rfl
@[simp] theorem State.emit_aux2 : (s.emit o).aux2 = s.aux2 := rfl
@[simp] theorem State.emit_muxSel : (s.emit o).muxSel = s.muxSel := rfl
@[simp] theorem State.emit_linkUp : (s.emit o).linkUp = s.linkUp := rfl
@[simp] theorem State.emit_framer : (s.emit o).framer = s.framer := rfl
@[simp] theorem State.emit_out : (s.emit o).out = s.out ++ [o] := rfl
@[simp] theorem State.emit_env : (s.emit o).env = s.env := rfl
end Emit

section Tx
variable (s : State) (b : Byte)
@[simp] theorem State.tx_pulse : (s.tx b).pulse = s.pulse := rfl
@[simp] theorem State.tx_enable : (s.tx b).enable = s.enable := rfl
@[simp] theorem State.tx_aux1 : (s.tx b).aux1 = s.aux1 := rfl
@[simp] theorem State.tx_aux2 : (s.tx b).aux2 = s.aux2 := rfl
@[simp] theorem State.tx_muxSel : (s.tx b).muxSel = s.muxSel := rfl
@[simp] theorem State.tx_linkUp : (s.tx b).linkUp = s.linkUp := rfl
@[simp] theorem State.tx_framer : (s.tx b).framer = s.framer := rfl
@[simp] theorem State.tx_out : (s.tx b).out = s.out ++ [.tx b] := rfl
@[simp] theorem State.tx_env : (s.tx b).env = s.env := rfl
end Tx

section Notice
variable (s : State) (d : Diag)
@[simp] theorem State.notice_pulse : (s.notice d).pulse = s.pulse := rfl
@[simp] theorem State.notice_enable : (s.notice d).enable = s.enable := rfl
@[simp] theorem State.notice_aux1 : (s.notice d).aux1 = s.aux1 := rfl
@[simp] theorem State.notice_aux2 : (s.notice d).aux2 = s.aux2 := rfl
@[simp] theorem State.notice_muxSel : (s.notice d).muxSel = s.muxSel := rfl
@[simp] theorem State.notice_linkUp : (s.notice d).linkUp = s.linkUp := rfl
@[simp] theorem State.notice_framer : (s.notice d).framer = s.framer := rfl
@[simp] theorem State.notice_out : (s.notice d).out = s.out ++ [.diag d] := rfl
@[simp] theorem State.notice_env : (s.notice d).env = s.env := rfl
end Notice

section WritePulse
variable (s : State) (ch : Fin 18) (v : Val)
@[simp] theorem State.writePulse_pulse : (s.writePulse ch v).pulse = s.pulse.set ch.val v ch.isLt := rfl
@[simp] theorem State.writePulse_enable : (s.writePulse ch v).enable = s.enable := rfl
@[simp] theorem State.writePulse_aux1 : (s.writePulse ch v).aux1 = s.aux1 := rfl
@[simp] theorem State.writePulse_aux2 : (s.writePulse ch v).aux2 = s.aux2 := rfl
@[simp] theorem State.writePulse_muxSel : (s.writePulse ch v).muxSel = s.muxSel := rfl
@[simp] theorem State.writePulse_linkUp : (s.writePulse ch v).linkUp = s.linkUp := rfl
@[simp] theorem State.writePulse_framer : (s.writePulse ch v).framer = s.framer := rfl
@[simp] theorem State.writePulse_out : (s.writePulse ch v).out = s.out ++ [.pulse ch v] := rfl
@[simp] theorem State.writePulse_env : (s.writePulse ch v).env = s.env := rfl
end WritePulse

section ReadPulse
variable (s : State) (ch : Fin 18)
@[simp] theorem State.readPulse_pulse : (s.readPulse ch).pulse = s.pulse := rfl
@[simp] theorem State.readPulse_enable : (s.readPulse ch).enable = s.enable := rfl
@[simp] theorem State.readPulse_aux1 : (s.readPulse ch).aux1 = s.aux1 := rfl
@[simp] theorem State.readPulse_aux2 : (s.readPulse ch).aux2 = s.aux2 := rfl
@[simp] theorem State.readPulse_muxSel : (s.readPulse ch).muxSel = s.muxSel := rfl
@[simp] theorem State.readPulse_linkUp : (s.readPulse ch).linkUp = s.linkUp := rfl
@[simp] theorem State.readPulse_framer : (s.readPulse ch).framer = s.framer := rfl
@[simp] theorem State.readPulse_out : (s.readPulse ch).out = s.out ++ [.getPulse ch s.pulse[ch.val]] := rfl
@[simp] theorem State.readPulse_env : (s.readPulse ch).env = s.env := rfl
end ReadPulse

section WriteEnable
variable (s : State) (b : Bool)
@[simp] theorem State.writeEnable_pulse : (s.writeEnable b).pulse = s.pulse := rfl
@[simp] theorem State.writeEnable_enable : (s.writeEnable b).enable = b := rfl
@[simp] theorem State.writeEnable_aux1 : (s.writeEnable b).aux1 = s.aux1 := rfl
@[simp] theorem State.writeEnable_aux2 : (s.writeEnable b).aux2 = s.aux2 := rfl
@[simp] theorem State.writeEnable_muxSel : (s.writeEnable b).muxSel = s.muxSel := rfl
@[simp] theorem State.writeEnable_linkUp : (s.writeEnable b).linkUp = s.linkUp := rfl
@[simp] theorem State.writeEnable_framer : (s.writeEnable b).framer = s.framer := rfl
@[simp] theorem State.writeEnable_out : (s.writeEnable b).out = s.out ++ [.enable b] := rfl
@[simp] theorem State.writeEnable_env : (s.writeEnable b).env = s.env := rfl
end WriteEnable

section WriteAux1
variable (s : State) (b : Bool)
@[simp] theorem State.writeAux1_pulse : (s.writeAux1 b).pulse = s.pulse := rfl
@[simp] theorem State.writeAux1_enable : (s.writeAux1 b).enable = s.enable := rfl
@[simp] theorem State.writeAux1_aux1 : (s.writeAux1 b).aux1 = b := rfl
@[simp] theorem State.writeAux1_aux2 : (s.writeAux1 b).aux2 = s.aux2 := rfl
@[simp] theorem State.writeAux1_muxSel : (s.writeAux1 b).muxSel = s.muxSel := rfl
@[simp] theorem State.writeAux1_linkUp : (s.writeAux1 b).linkUp = s.linkUp := rfl
@[simp] theorem State.writeAux1_framer : (s.writeAux1 b).framer = s.framer := rfl
@[simp] theorem State.writeAux1_out : (s.writeAux1 b).out = s.out ++ [.aux1 b] := rfl
@[simp] theorem State.writeAux1_env : (s.writeAux1 b).env = s.env := rfl
end WriteAux1

section WriteAux2
variable (s : State) (b : Bool)
@[simp] theorem State.writeAux2_pulse : (s.writeAux2 b).pulse = s.pulse := rfl
@[simp] theorem State.writeAux2_enable : (s.writeAux2 b).enable = s.enable := rfl
@[simp] theorem State.writeAux2_aux1 : (s.writeAux2 b).aux1 = s.aux1 := rfl
@[simp] theorem State.writeAux2_aux2 : (s.writeAux2 b).aux2 = b := rfl
@[simp] theorem State.writeAux2_muxSel : (s.writeAux2 b).muxSel = s.muxSel := rfl
@[simp] theorem State.writeAux2_linkUp : (s.writeAux2 b).linkUp = s.linkUp := rfl
@[simp] theorem State.writeAux2_framer : (s.writeAux2 b).framer = s.framer := rfl
@[simp] theorem State.writeAux2_out : (s.writeAux2 b).out = s.out ++ [.aux2 b] := rfl
@[simp] theorem State.writeAux2_env : (s.writeAux2 b).env = s.env := rfl
end WriteAux2

section SelectMux
variable (s : State) (addr : Nat)
@[simp] theorem State.selectMux_pulse : (s.selectMux addr).pulse = s.pulse := rfl
@[simp] theorem State.selectMux_enable : (s.selectMux addr).enable = s.enable := rfl
@[simp] theorem State.selectMux_aux1 : (s.selectMux addr).aux1 = s.aux1 := rfl
@[simp] theorem State.selectMux_aux2 : (s.selectMux addr).aux2 = s.aux2 := rfl
@[simp] theorem State.selectMux_muxSel : (s.selectMux addr).muxSel = some addr := rfl
@[simp] theorem State.selectMux_linkUp : (s.selectMux addr).linkUp = s.linkUp := rfl
@[simp] theorem State.selectMux_framer : (s.selectMux addr).framer = s.framer := rfl
@[simp] theorem State.selectMux_out : (s.selectMux addr).out = s.out ++ [.select addr] := rfl
@[simp] theorem State.selectMux_env : (s.selectMux addr).env = s.env := rfl
end SelectMux

section SetLinkUp
variable (s : State) (b : Bool)
@[simp] theorem State.setLinkUp_pulse : (s.setLinkUp b).pulse = s.pulse := rfl
@[simp] theorem State.setLinkUp_enable : (s.setLinkUp b).enable = s.enable := rfl
@[simp] theorem State.setLinkUp_aux1 : (s.setLinkUp b).aux1 = s.aux1 := rfl
@[simp] theorem State.setLinkUp_aux2 : (s.setLinkUp b).aux2 = s.aux2 := rfl
@[simp] theorem State.setLinkUp_muxSel : (s.setLinkUp b).muxSel = s.muxSel := rfl
@[simp] theorem State.setLinkUp_linkUp : (s.setLinkUp b).linkUp = b := rfl
@[simp] theorem State.setLinkUp_framer : (s.setLinkUp b).framer = s.framer := rfl
@[simp] theorem State.setLinkUp_out : (s.setLinkUp b).out = s.out := rfl
@[simp] theorem State.setLinkUp_env : (s.setLinkUp b).env = s.env := rfl
end SetLinkUp

section SetFramer
variable (s : State) (f : Framer)
@[simp] theorem State.setFramer_pulse : (s.setFramer f).pulse = s.pulse := rfl
@[simp] theorem State.setFramer_enable : (s.setFramer f).enable = s.enable := rfl
@[simp] theorem State.setFramer_aux1 : (s.setFramer f).aux1 = s.aux1 := rfl
@[simp] theorem State.setFramer_aux2 : (s.setFramer f).aux2 = s.aux2 := rfl
@[simp] theorem State.setFramer_muxSel : (s.setFramer f).muxSel = s.muxSel := rfl
@[simp] theorem State.setFramer_linkUp : (s.setFramer f).linkUp = s.linkUp := rfl
@[simp] theorem State.setFramer_framer : (s.setFramer f).framer = f := rfl
@[simp] theorem State.setFramer_out : (s.setFramer f).out = s.out := rfl
@[simp] theorem State.setFramer_env : (s.setFramer f).env = s.env := rfl
end SetFramer

section SetFsm
variable (s : State) (q : Fsm)
@[simp] theorem State.setFsm_pulse : (s.setFsm q).pulse = s.pulse := rfl
@[simp] theorem State.setFsm_enable : (s.setFsm q).enable = s.enable := rfl
@[simp] theorem State.setFsm_aux1 : (s.setFsm q).aux1 = s.aux1 := rfl
@[simp] theorem State.setFsm_aux2 : (s.setFsm q).aux2 = s.aux2 := rfl
@[simp] theorem State.setFsm_muxSel : (s.setFsm q).muxSel = s.muxSel := rfl
@[simp] theorem State.setFsm_linkUp : (s.setFsm q).linkUp = s.linkUp := rfl
@[simp] theorem State.setFsm_framer : (s.setFsm q).framer = { s.framer with fsm := q } := rfl
@[simp] theorem State.setFsm_out : (s.setFsm q).out = s.out := rfl
@[simp] theorem State.setFsm_env : (s.setFsm q).env = s.env := rfl
end SetFsm

section SetEnv
variable (s : State) (e : Env)
@[simp] theorem State.setEnv_pulse : (s.setEnv e).pulse = s.pulse := rfl
@[simp] theorem State.setEnv_enable : (s.setEnv e).enable = s.enable := rfl
@[simp] theorem State.setEnv_aux1 : (s.setEnv e).aux1 = s.aux1 := rfl
@[simp] theorem State.setEnv_aux2 : (s.setEnv e).aux2 = s.aux2 := rfl
@[simp] theorem State.setEnv_muxSel : (s.setEnv e).muxSel = s.muxSel := rfl
@[simp] theorem State.setEnv_linkUp : (s.setEnv e).linkUp = s.linkUp := rfl
@[simp] theorem State.setEnv_framer : (s.setEnv e).framer = s.framer := rfl
@[simp] theorem State.setEnv_out : (s.setEnv e).out = s.out := rfl
@[simp] theorem State.setEnv_env : (s.setEnv e).env = e := rfl
end SetEnv

section RaiseFault
variable (s : State) (d : Diag)
@[simp] theorem State.raiseFault_pulse : (s.raiseFault d).pulse = s.pulse := rfl
@[simp] theorem State.raiseFault_enable : (s.raiseFault d).enable = s.enable := rfl
@[simp] theorem State.raiseFault_aux1 : (s.raiseFault d).aux1 = s.aux1 := rfl
@[simp] theorem State.raiseFault_aux2 : (s.raiseFault d).aux2 = s.aux2 := rfl
@[simp] theorem State.raiseFault_muxSel : (s.raiseFault d).muxSel = s.muxSel := rfl
@[simp] theorem State.raiseFault_linkUp : (s.raiseFault d).linkUp = s.linkUp := rfl
@[simp] theorem State.raiseFault_framer : (s.raiseFault d).framer = { s.framer with fsm := .idle } := rfl
@[simp] theorem State.raiseFault_out : (s.raiseFault d).out = s.out ++ [.diag d] := rfl
@[simp] theorem State.raiseFault_env : (s.raiseFault d).env = s.env := rfl
end RaiseFault

section ApplyReset
variable (s : State)
@[simp] theorem State.applyReset_pulse : s.applyReset.pulse = State.reset.pulse := rfl
@[simp] theorem State.applyReset_enable : s.applyReset.enable = State.reset.enable := rfl
@[simp] theorem State.applyReset_aux1 : s.applyReset.aux1 = State.reset.aux1 := rfl
@[simp] theorem State.applyReset_aux2 : s.applyReset.aux2 = State.reset.aux2 := rfl
@[simp] theorem State.applyReset_muxSel : s.applyReset.muxSel = State.reset.muxSel := rfl
@[simp] theorem State.applyReset_linkUp : s.applyReset.linkUp = State.reset.linkUp := rfl
@[simp] theorem State.applyReset_framer : s.applyReset.framer = State.reset.framer := rfl
@[simp] theorem State.applyReset_out : s.applyReset.out = s.out := rfl
@[simp] theorem State.applyReset_env : s.applyReset.env = s.env := rfl
end ApplyReset

end Sys2Proof.Machine
end

