-- ==== Sys2Proof/Laws/Ops.lean ====
section
/-! SUPPORT. One lemma per shared operation: everything it can do. -/

namespace Sys2Proof.Machine

@[simp] theorem andThen_next {α β : Type} (a : α) (f : α → Result β) : andThen (.next a) f = f a := rfl
@[simp] theorem andThen_fault {α β : Type} (r : Fault) (f : α → Result β) : andThen (.fault r) f = .fault r := rfl
@[simp] theorem andThen_refused {α β : Type} (r : Refusal) (f : α → Result β) :
    andThen (.refused r) f = .refused r := rfl

/-- A sequence answers a next state exactly when both its parts do. -/
theorem andThen_eq_next {α β : Type} {o : Result α} {f : α → Result β} {b : β} :
    andThen o f = .next b ↔ ∃ a, o = .next a ∧ f a = .next b := by
  cases o <;> simp [andThen]

/-- Taking an event changes the environment's side and nothing else. -/
theorem nextEvent_eq (s : State) : ∃ e, (nextEvent s).2 = s.setEnv e ∧ e.adcScript = s.env.adcScript ∧
    e.adcDraws = s.env.adcDraws := by
  unfold nextEvent
  split
  · exact ⟨_, rfl, rfl, rfl⟩
  · exact ⟨_, rfl, rfl, rfl⟩

/-- A listed event is taken in order. -/
theorem nextEvent_cons {s : State} {e : InputEvent} {rest : List InputEvent} (h : s.env.inbox = e :: rest) :
    nextEvent s = (e, s.setEnv { s.env with inbox := rest }) := by
  simp [nextEvent, h]

/-- With nothing listed, the event is a free value. -/
theorem nextEvent_nil {s : State} (h : s.env.inbox = []) :
    nextEvent s = (Config.envEvent s.env.envDraws, s.setEnv { s.env with envDraws := s.env.envDraws + 1 }) := by
  simp [nextEvent, h]

/-- Taking an answer changes the environment's side and nothing else. -/
theorem nextAnswer_eq (s : State) : ∃ e, (nextAnswer s).2 = s.setEnv e ∧ e.inbox = s.env.inbox ∧
    e.envDraws = s.env.envDraws := by
  unfold nextAnswer
  split
  · exact ⟨_, rfl, rfl, rfl⟩
  · exact ⟨_, rfl, rfl, rfl⟩

/-- What an `AdcRead` that answers leaves behind: the read in the outputs, and a new environment's side. -/
theorem adcRead_next {k : AdcKind} {s t : State} {a : AdcAnswer} (h : adcRead k s = .next (a, t)) :
    ∃ e, t = (s.setEnv e).emit (.adcRead k a) ∧ e.inbox = s.env.inbox ∧ e.envDraws = s.env.envDraws := by
  obtain ⟨e, he, h1, h2⟩ := nextAnswer_eq s
  unfold adcRead at h
  split at h
  · next b u hb =>
      cases h
      exact ⟨e, by simp [← he, hb], h1, h2⟩
  · cases h

/-- An `AdcRead` never refuses, and faults only when no answer comes. -/
theorem adcRead_cases (k : AdcKind) (s : State) :
    (∃ a t, (nextAnswer s).1 = some a ∧ adcRead k s = .next (a, t)) ∨
      ((nextAnswer s).1 = none ∧ adcRead k s = .fault .adcNoAnswer) := by
  unfold adcRead
  split
  · next a t h => exact .inl ⟨a, _, by simp [h], rfl⟩
  · next t h => exact .inr ⟨by simp [h], rfl⟩

end Sys2Proof.Machine
end

