-- ==== Sys2Proof/Laws/Get.lean ====
section
/-! SUPPORT. The GET slot action and the walk over a range (42_get.md R150 to R167). -/

namespace Sys2Proof.Machine

theorem answerAt_zero (s : State) : (nextAnswer s).1 = answerAt s 0 := by
  unfold nextAnswer answerAt
  cases h : s.env.adcScript <;> simp

/-- Reading one answer shifts the answers to come by one. -/
theorem answerAt_succ (s : State) (n : Nat) (t : State) (h : t.env = s.env.afterReads 1) :
    answerAt t n = answerAt s (n + 1) := by
  cases hs : s.env.adcScript with
  | nil => simp [answerAt, h, Env.afterReads, hs, Nat.add_assoc, Nat.add_comm 1 n]
  | cons a rest => simp [answerAt, h, Env.afterReads, hs]

theorem nextAnswer_env (s : State) : (nextAnswer s).2 = s.setEnv (s.env.afterReads 1) := by
  cases h : s.env.adcScript <;> simp [nextAnswer, Env.afterReads, h, State.setEnv]

theorem afterReads_add (e : Env) (m n : Nat) : (e.afterReads m).afterReads n = e.afterReads (m + n) := by
  simp only [Env.afterReads, List.drop_drop, List.length_drop]
  congr 1
  omega

@[simp] theorem afterReads_zero (e : Env) : e.afterReads 0 = e := by simp [Env.afterReads]

/-- One sensor read after its select: the value of the answer, and the notice if it failed (R166). -/
theorem sense_answered {k : AdcKind} {idx : Nat} {s : State} {a : AdcAnswer} (h : answerAt s 0 = some a) :
    ∃ t, sense k idx s = .next (answerValue k a, t) ∧
      t = { s with
        env := s.env.afterReads 1
        out := s.out ++ ([.adcRead k a] ++ (match a with | .ok _ => [] | .fail => [.diag (.adcFail idx)])) } := by
  rw [← answerAt_zero] at h
  have hr : adcRead k s = .next (a, (s.setEnv (s.env.afterReads 1)).emit (.adcRead k a)) := by
    unfold adcRead
    rw [show nextAnswer s = (some a, s.setEnv (s.env.afterReads 1)) from Prod.ext h (nextAnswer_env s)]
  cases a <;> simp [sense, hr, answerValue, State.notice, State.emit, State.setEnv]

/-- A read whose answer never comes is the stuck state (93_implementation_defined.md S1). -/
theorem sense_unanswered {k : AdcKind} {idx : Nat} {s : State} (h : answerAt s 0 = none) :
    sense k idx s = .fault .adcNoAnswer := by
  rw [← answerAt_zero] at h
  unfold sense adcRead
  split
  · next hb => rw [hb] at h; cases h
  · simp

/-- What one slot of a GET answers, sends and leaves behind, as a function of the state before it. -/
structure SlotEffect (idx : Nat) (s : State) (v : Val) (t : State) : Prop where
  value  : v = getValue idx s idx
  framer : t.framer = s.framer
  effect : GetEffect idx 1 s t
  out    : t.out ++ valueOutputs v = s.out ++ getSlotOutputs idx s idx

theorem pulseReads_actuator (s : State) (ch : Fin 18) : pulseReads s ch.val = [.getPulse ch s.pulse[ch.val]] := by
  simp [pulseReads]

theorem pulseReads_of_ge (s : State) {idx : Nat} (h : 18 ≤ idx) : pulseReads s idx = [] := by
  rw [pulseReads, dif_neg (by omega)]

theorem sensorsBetween_self (idx : Nat) : sensorsBetween idx idx = 0 := by simp only [sensorsBetween]; omega

/-- One GET slot inside the channel map completes when its read, if it makes one, is answered. -/
theorem memRead_effect {idx : Nat} (h : idx ≤ 28) {s : State} (ha : Answered s (sensorsBetween idx (idx + 1))) :
    ∃ v t, memRead idx s = .next (v, t) ∧ SlotEffect idx s v t := by
  have sensor : ∀ k, (kind idx).isSensor = true → k = sensorRead idx →
      memRead idx s = sense k idx (s.selectMux (Config.muxAddr idx)) →
      (∀ a, getValue idx s idx = answerValue k a ∨ answerAt s 0 ≠ some a) →
      ∃ v t, memRead idx s = .next (v, t) ∧ SlotEffect idx s v t := by
    intro k hs hk hm hv
    have hi := (kind_isSensor idx).1 hs
    have h1 : sensorsBetween idx (idx + 1) = 1 := by simp only [sensorsBetween]; omega
    obtain ⟨a, hea⟩ : ∃ a, answerAt s 0 = some a := by
      have := ha 0 (by omega)
      exact Option.ne_none_iff_exists'.1 this
    obtain ⟨t, ht, htt⟩ := sense_answered (k := k) (idx := idx) (s := s.selectMux (Config.muxAddr idx)) (a := a)
      (by simpa [answerAt] using hea)
    have hav : getValue idx s idx = answerValue k a := (hv a).resolve_right (by simp [hea])
    refine ⟨_, t, hm.trans ht, ?_⟩
    subst htt
    refine ⟨hav.symm, rfl, ?_, ?_⟩
    · constructor <;> simp [h1]
      simp only [sensorsBetween] at h1
      omega
    · subst hk
      cases a <;> simp [getSlotOutputs, pulseReads_of_ge s hi.1, hs, sensorsBetween_self, hea, hav, sensorOutputs]
  have plain : ∀ v, 18 ≤ idx → (kind idx).isSensor = false → memRead idx s = .next (v, s) → v = getValue idx s idx →
      ∃ v t, memRead idx s = .next (v, t) ∧ SlotEffect idx s v t := by
    intro v hi hs hm hv
    have h0 : sensorsBetween idx (idx + 1) = 0 := by
      have := (kind_isSensor idx).not.1 (by simp [hs])
      simp only [sensorsBetween]; omega
    refine ⟨v, s, hm, hv, rfl, ?_, ?_⟩
    · constructor <;> simp [h0]
    · simp [getSlotOutputs, pulseReads_of_ge s hi, hs, hv]
  rcases kind_cases h with ⟨ch, rfl, hk⟩ | ⟨h1, h2, hk⟩ | ⟨rfl, hk⟩ | ⟨rfl, hk⟩ | ⟨rfl, hk⟩ | ⟨rfl, hk⟩ | ⟨rfl, hk⟩
  · have h0 : sensorsBetween ch.val (ch.val + 1) = 0 := by simp only [sensorsBetween]; omega
    refine ⟨s.pulse[ch.val], s.readPulse ch, by simp [memRead, hk], by simp [getValue, hk], rfl, ?_, ?_⟩
    · constructor <;> simp [h0]
    · simp [getSlotOutputs, pulseReads_actuator, getValue, hk, Kind.isSensor]
  · refine sensor .voltage (by simp [hk, Kind.isSensor]) (by simp [sensorRead]; omega) (by simp [memRead, hk]) ?_
    intro a
    by_cases hea : answerAt s 0 = some a
    · left
      simp [getValue, hk, sensorsBetween_self, hea, sensorRead, show idx ≠ 24 by omega]
    · exact .inr hea
  · refine sensor .current (by simp [hk, Kind.isSensor]) (by simp [sensorRead]) (by simp [memRead, hk]) ?_
    intro a
    by_cases hea : answerAt s 0 = some a
    · left
      simp [getValue, hk, sensorsBetween_self, hea, sensorRead]
    · exact .inr hea
  · refine sensor .voltage (by simp [hk, Kind.isSensor]) (by simp [sensorRead]) (by simp [memRead, hk]) ?_
    intro a
    by_cases hea : answerAt s 0 = some a
    · left
      simp [getValue, hk, sensorsBetween_self, hea, sensorRead]
    · exact .inr hea
  · exact plain (levelValue s.enable) (by decide) (by simp [hk, Kind.isSensor]) (by simp [memRead, hk]) (by simp [getValue, hk])
  · exact plain (levelValue s.aux1) (by decide) (by simp [hk, Kind.isSensor]) (by simp [memRead, hk]) (by simp [getValue, hk])
  · exact plain (levelValue s.aux2) (by decide) (by simp [hk, Kind.isSensor]) (by simp [memRead, hk]) (by simp [getValue, hk])

theorem sensorsBetween_add {a b c : Nat} (h1 : a ≤ b) (h2 : b ≤ c) :
    sensorsBetween a b + sensorsBetween b c = sensorsBetween a c := by
  simp only [sensorsBetween]; omega

/-- Slots with nothing in them. -/
theorem GetEffect.zero (start : Nat) (s : State) : GetEffect start 0 s s := by
  have h : sensorsBetween start start = 0 := by simp only [sensorsBetween]; omega
  constructor <;> simp [h]

/-- One slot followed by the rest of the range. -/
theorem GetEffect.cons {idx n : Nat} {s t u : State} (h1 : GetEffect idx 1 s t) (h2 : GetEffect (idx + 1) n t u) :
    GetEffect idx (n + 1) s u := by
  have hadd := sensorsBetween_add (a := idx) (b := idx + 1) (c := idx + (n + 1)) (by omega) (by omega)
  rw [show idx + (n + 1) = idx + 1 + n by omega] at hadd
  constructor
  · rw [h2.pulse, h1.pulse]
  · rw [h2.enable, h1.enable]
  · rw [h2.aux1, h1.aux1]
  · rw [h2.aux2, h1.aux2]
  · rw [h2.linkUp, h1.linkUp]
  · rw [h2.muxSel, h1.muxSel]
    by_cases hb : sensorsBetween (idx + 1) (idx + 1 + n) = 0
    · by_cases ha : sensorsBetween idx (idx + 1) = 0
      · simp [hb, ha, ← hadd, show idx + (n + 1) = idx + 1 + n by omega]
      · rw [if_pos hb, if_neg ha, if_neg (by rw [show idx + (n + 1) = idx + 1 + n by omega]; omega)]
        congr 2
        simp only [sensorsBetween] at ha hb
        omega
    · rw [if_neg hb, if_neg (by rw [show idx + (n + 1) = idx + 1 + n by omega]; omega),
        show idx + (n + 1) = idx + 1 + n by omega]
  · rw [h2.env, h1.env, afterReads_add, hadd, show idx + (n + 1) = idx + 1 + n by omega]

/-- What a later slot returns, seen from before the first one. -/
theorem getValue_after {idx : Nat} {s t : State} (h : GetEffect idx 1 s t) {j : Nat} (hj : idx < j) :
    getValue (idx + 1) t j = getValue idx s j ∧ getSlotOutputs (idx + 1) t j = getSlotOutputs idx s j := by
  have hadd := sensorsBetween_add (a := idx) (b := idx + 1) (c := j) (by omega) (by omega)
  have ha : answerAt t (sensorsBetween (idx + 1) j) = answerAt s (sensorsBetween idx j) := by
    have henv := h.env
    have h01 : sensorsBetween idx (idx + 1) = 0 ∨ sensorsBetween idx (idx + 1) = 1 := by
      simp only [sensorsBetween]; omega
    rcases h01 with h0 | h1
    · rw [h0] at henv hadd
      simp only [afterReads_zero] at henv
      simp [answerAt, henv, ← hadd]
    · rw [h1] at henv hadd
      rw [answerAt_succ s _ t henv, ← hadd, Nat.add_comm]
  have hv : getValue (idx + 1) t j = getValue idx s j := by
    unfold getValue
    rw [ha]
    split <;> simp [h.pulse, h.enable, h.aux1, h.aux2]
  exact ⟨hv, by simp only [getSlotOutputs, pulseReads, ha, hv, h.pulse]⟩

/-- The walk over a range inside the channel map completes when its reads are answered, with the effect the rules
give it. -/
theorem readSlots_effect : ∀ (n idx : Nat) (s : State), idx + n ≤ 29 →
    Answered s (sensorsBetween idx (idx + n)) →
    ∃ t, readSlots n idx s = .next t ∧ GetEffect idx n s t ∧ t.framer = s.framer ∧
      t.out = s.out ++ slotOutputs idx n s := by
  intro n
  induction n with
  | zero => intro idx s _ _; exact ⟨s, rfl, .zero idx s, rfl, by simp [slotOutputs]⟩
  | succ n ih =>
    intro idx s h ha
    have hadd := sensorsBetween_add (a := idx) (b := idx + 1) (c := idx + (n + 1)) (by omega) (by omega)
    rw [show idx + (n + 1) = idx + 1 + n by omega] at hadd ha
    obtain ⟨v, t, ht, hs⟩ := memRead_effect (idx := idx) (s := s) (by omega) (fun j hj => ha j (by omega))
    have he : GetEffect idx 1 s (t.txValue v) := by
      have := hs.effect
      constructor
      · exact this.pulse
      · exact this.enable
      · exact this.aux1
      · exact this.aux2
      · exact this.linkUp
      · exact this.muxSel
      · exact this.env
    have hans : Answered (t.txValue v) (sensorsBetween (idx + 1) (idx + 1 + n)) := by
      intro j hj
      have h01 : sensorsBetween idx (idx + 1) = 0 ∨ sensorsBetween idx (idx + 1) = 1 := by
        simp only [sensorsBetween]; omega
      rcases h01 with h0 | h1
      · have henv := he.env
        rw [h0, afterReads_zero] at henv
        have : answerAt (t.txValue v) j = answerAt s j := by simp [answerAt, henv]
        rw [this]
        exact ha j (by omega)
      · have henv := he.env
        rw [h1] at henv
        rw [answerAt_succ s j _ henv]
        exact ha (j + 1) (by omega)
    obtain ⟨u, hu, hu1, hu2, hu3⟩ := ih (idx + 1) (t.txValue v) (by omega) hans
    refine ⟨u, by simp [readSlots, ht, hu], he.cons hu1, by rw [hu2]; exact hs.framer, ?_⟩
    have hout : (t.txValue v).out = s.out ++ getSlotOutputs idx s idx := by
      have : (t.txValue v).out = t.out ++ valueOutputs v := by simp [State.txValue, valueOutputs]
      rw [this, hs.out]
    have hrest : (List.range' (idx + 1) n).flatMap (getSlotOutputs (idx + 1) (t.txValue v)) =
        (List.range' (idx + 1) n).flatMap (getSlotOutputs idx s) := by
      apply List.flatMap_congr
      intro j hj
      exact (getValue_after he (by have := List.mem_range'_1.1 hj; omega)).2
    rw [hu3, hout, slotOutputs, slotOutputs, hrest, List.range'_succ, List.flatMap_cons]
    simp

/-- The walk stops, stuck, at the first read whose answer never comes. -/
theorem readSlots_stuck : ∀ (n idx : Nat) (s : State), idx + n ≤ 29 →
    ¬ Answered s (sensorsBetween idx (idx + n)) → readSlots n idx s = .fault .adcNoAnswer := by
  intro n
  induction n with
  | zero =>
    intro idx s _ ha
    exact absurd (fun j hj => by simp only [sensorsBetween] at hj; omega) ha
  | succ n ih =>
    intro idx s h ha
    have hadd := sensorsBetween_add (a := idx) (b := idx + 1) (c := idx + (n + 1)) (by omega) (by omega)
    rw [show idx + (n + 1) = idx + 1 + n by omega] at hadd ha
    by_cases h1 : Answered s (sensorsBetween idx (idx + 1))
    · obtain ⟨v, t, ht, hs⟩ := memRead_effect (idx := idx) (s := s) (by omega) h1
      have henv : (t.txValue v).env = s.env.afterReads (sensorsBetween idx (idx + 1)) := hs.effect.env
      have : ¬ Answered (t.txValue v) (sensorsBetween (idx + 1) (idx + 1 + n)) := by
        intro hall
        apply ha
        have h01 : sensorsBetween idx (idx + 1) = 0 ∨ sensorsBetween idx (idx + 1) = 1 := by
          simp only [sensorsBetween]; omega
        rcases h01 with h0 | h1'
        · rw [h0, afterReads_zero] at henv
          intro j hj
          have he2 : answerAt (t.txValue v) j = answerAt s j := by simp [answerAt, henv]
          rw [← he2]
          exact hall j (by omega)
        · rw [h1'] at henv
          intro j hj
          cases j with
          | zero => exact h1 0 (by omega)
          | succ j => rw [← answerAt_succ s j _ henv]; exact hall j (by omega)
      simp [readSlots, ht, ih (idx + 1) (t.txValue v) (by omega) this]
    · have h0 : answerAt s 0 = none := by
        by_contra hne
        apply h1
        intro j hj
        simp only [sensorsBetween] at hj
        obtain rfl : j = 0 := by omega
        exact hne
      have hsens : 18 ≤ idx ∧ idx ≤ 25 := by
        by_contra hc
        exact h1 (fun j hj => by simp only [sensorsBetween] at hj; omega)
      have h0' : answerAt (s.selectMux (Config.muxAddr idx)) 0 = none := by simpa [answerAt] using h0
      have : memRead idx s = .fault .adcNoAnswer := by
        have hk := (kind_isSensor idx).2 hsens
        unfold memRead
        split <;> simp_all [Kind.isSensor, sense_unanswered]
      simp [readSlots, this]

end Sys2Proof.Machine
end

