-- ==== Sys2Proof/Laws/Set.lean ====
section
/-! SUPPORT. The SET slot action and the walk over a range (41_set.md R130 to R139). -/

namespace Sys2Proof.Machine

theorem written_nil (start idx : Nat) : written start [] idx = none := by simp [written]

theorem written_cons (start idx : Nat) (v : Val) (vs : List Val) :
    written start (v :: vs) idx = if idx = start then some v else written (start + 1) vs idx := by
  unfold written
  rcases Nat.lt_trichotomy idx start with h | rfl | h
  · simp [Nat.not_le.2 h, Nat.ne_of_lt h, show ¬ start + 1 ≤ idx by omega]
  · simp
  · obtain ⟨d, rfl⟩ : ∃ d, idx = start + 1 + d := ⟨idx - (start + 1), by omega⟩
    simp [show start ≤ start + 1 + d by omega, show start + 1 + d - start = d + 1 by omega,
      show start + 1 + d ≠ start by omega]

/-- A range covers a channel exactly when the channel lies inside it. -/
theorem written_isSome (start idx : Nat) (values : List Val) :
    (written start values idx).isSome = true ↔ start ≤ idx ∧ idx < start + values.length := by
  unfold written
  split <;> simp <;> omega

theorem setOutputs_nil (start : Nat) : setOutputs start [] = [] := rfl

theorem setOutputs_cons (start : Nat) (v : Val) (vs : List Val) :
    setOutputs start (v :: vs) = setSlotOutput start v ++ setOutputs (start + 1) vs := by
  simp [setOutputs, List.zipIdx_cons]

/-- One SET slot inside the channel map: it always completes, as a SET of that one value; the framer is untouched. -/
theorem memWrite_effect {idx : Nat} (h : idx ≤ 28) (v : Val) (s : State) :
    ∃ t, memWrite idx v s = .next t ∧ SetEffect idx [v] s t ∧ t.framer = s.framer := by
  rcases kind_cases h with ⟨ch, rfl, hk⟩ | ⟨h1, h2, hk⟩ | ⟨rfl, hk⟩ | ⟨rfl, hk⟩ | ⟨rfl, hk⟩ | ⟨rfl, hk⟩ | ⟨rfl, hk⟩
  · refine ⟨s.writePulse ch v, by simp [memWrite, hk], ?_, rfl⟩
    have hlt := ch.isLt
    constructor <;> simp [written_cons, written_nil, setOutputs_cons, setOutputs_nil, setSlotOutput, hk,
      Vector.getElem_set, show (26 : Nat) ≠ ch.val by omega, show (27 : Nat) ≠ ch.val by omega,
      show (28 : Nat) ≠ ch.val by omega]
    intro c
    rcases eq_or_ne c ch with rfl | hc
    · simp
    · have : c.val ≠ ch.val := fun e => hc (Fin.ext e)
      simp [this, this.symm]
  · refine ⟨s.notice (.setRo idx), by simp [memWrite, hk], ?_, rfl⟩
    constructor <;> simp [written_cons, written_nil, setOutputs_cons, setOutputs_nil, setSlotOutput, hk,
      show (26 : Nat) ≠ idx by omega, show (27 : Nat) ≠ idx by omega, show (28 : Nat) ≠ idx by omega]
    intro c
    simp [show c.val ≠ idx by omega]
  · refine ⟨s.notice (.setRo 24), by simp [memWrite, hk], ?_, rfl⟩
    constructor <;> simp [written_cons, written_nil, setOutputs_cons, setOutputs_nil, setSlotOutput, hk]
    intro c
    simp [show c.val ≠ 24 by omega]
  · refine ⟨s.notice (.setRo 25), by simp [memWrite, hk], ?_, rfl⟩
    constructor <;> simp [written_cons, written_nil, setOutputs_cons, setOutputs_nil, setSlotOutput, hk]
    intro c
    simp [show c.val ≠ 25 by omega]
  · refine ⟨s.writeEnable (truth v), by simp [memWrite, hk], ?_, rfl⟩
    constructor <;> simp [written_cons, written_nil, setOutputs_cons, setOutputs_nil, setSlotOutput, hk]
    intro c
    simp [show c.val ≠ 26 by omega]
  · refine ⟨s.writeAux1 (truth v), by simp [memWrite, hk], ?_, rfl⟩
    constructor <;> simp [written_cons, written_nil, setOutputs_cons, setOutputs_nil, setSlotOutput, hk]
    intro c
    simp [show c.val ≠ 27 by omega]
  · refine ⟨s.writeAux2 (truth v), by simp [memWrite, hk], ?_, rfl⟩
    constructor <;> simp [written_cons, written_nil, setOutputs_cons, setOutputs_nil, setSlotOutput, hk]
    intro c
    simp [show c.val ≠ 28 by omega]

/-- A SET that writes nothing, and one slot followed by the rest of the range. -/
theorem SetEffect.nil (start : Nat) (s : State) : SetEffect start [] s s := by
  constructor <;> simp [written_nil, setOutputs_nil]

theorem SetEffect.cons {start : Nat} {v : Val} {vs : List Val} {s t u : State}
    (h1 : SetEffect start [v] s t) (h2 : SetEffect (start + 1) vs t u) : SetEffect start (v :: vs) s u := by
  have hw : ∀ idx, written (start + 1) vs idx = none ∨ idx ≠ start := by
    intro idx
    rcases eq_or_ne idx start with rfl | hne
    · exact .inl (by simp [written])
    · exact .inr hne
  have key : ∀ (α : Type) (f : Val → α) (a b : α) (idx : Nat),
      b = ((written start [v] idx).map f).getD a →
      ((written (start + 1) vs idx).map f).getD b = ((written start (v :: vs) idx).map f).getD a := by
    intro α f a b idx hb
    subst hb
    simp only [written_cons, written_nil]
    rcases hw idx with h | h
    · split <;> simp [h]
    · simp [h]
  constructor
  · intro ch
    rw [h2.pulse]
    simpa using key Val id _ _ ch.val (by simpa using h1.pulse ch)
  · rw [h2.enable]; exact key Bool truth _ _ 26 h1.enable
  · rw [h2.aux1]; exact key Bool truth _ _ 27 h1.aux1
  · rw [h2.aux2]; exact key Bool truth _ _ 28 h1.aux2
  · rw [h2.muxSel, h1.muxSel]
  · rw [h2.linkUp, h1.linkUp]
  · rw [h2.env, h1.env]
  · rw [h2.out, h1.out, setOutputs_cons, setOutputs_cons, setOutputs_nil]; simp

/-- The walk over a range inside the channel map always completes, with the effect the rules give it. -/
theorem dispatchSet_effect (values : List Val) : ∀ (start : Nat) (s : State), start + values.length ≤ 29 →
    ∃ t, dispatchSet start values s = .next t ∧ SetEffect start values s t ∧ t.framer = s.framer := by
  induction values with
  | nil => intro start s _; exact ⟨s, rfl, .nil start s, rfl⟩
  | cons v vs ih =>
    intro start s h
    simp only [List.length_cons] at h
    obtain ⟨t, ht, he, hf⟩ := memWrite_effect (idx := start) (by omega) v s
    obtain ⟨u, hu, hu2, hf2⟩ := ih (start + 1) t (by omega)
    exact ⟨u, by simp [dispatchSet, ht, hu], he.cons hu2, by rw [hf2, hf]⟩

end Sys2Proof.Machine
end

