-- ==== Sys2Proof/Laws/Framer.lean ====
section
/-! SUPPORT. What a command and a step can do, said once: the inversion lemmas the invariants are derived from. -/

namespace Sys2Proof.Machine

/-- A SET answers a next state always: its effect when its range is valid, else `F_RANGE`. -/
theorem execSet_cases (start : Field) (values : List Val) (s : State) :
    (rangeValid start.toNat values.length = true ∧ ∃ t, execSet start values s = .next (t.setFsm .idle) ∧
      SetEffect start.toNat values s t ∧ t.framer = s.framer) ∨
    (rangeValid start.toNat values.length = false ∧
      execSet start values s = .next (s.raiseFault (.range start.toNat values.length))) := by
  cases hr : rangeValid start.toNat values.length
  · exact .inr ⟨rfl, by simp [execSet, hr]⟩
  · obtain ⟨t, ht, he, hf⟩ := dispatchSet_effect values start.toNat s (rangeValid_iff.1 hr).2
    exact .inl ⟨rfl, t, by simp [execSet, hr, ht], he, hf⟩

theorem echo_out (s : State) (start count : Field) :
    (s.txEcho start count).out = s.out ++ echoOutputs start count := by simp [State.txEcho, echoOutputs]

/-- A GET answers a next state when its range is valid and its reads are answered, is stuck when one is not, and
raises `F_RANGE` when its range is not valid. -/
theorem execGet_cases (start count : Field) (s : State) :
    (rangeValid start.toNat count.toNat = true ∧
      Answered s (sensorsBetween start.toNat (start.toNat + count.toNat)) ∧
      ∃ t, execGet start count s = .next (t.setFsm .idle) ∧ GetEffect start.toNat count.toNat s t ∧
        t.framer = s.framer ∧ t.out = s.out ++ echoOutputs start count ++ slotOutputs start.toNat count.toNat s) ∨
    (rangeValid start.toNat count.toNat = true ∧
      ¬ Answered s (sensorsBetween start.toNat (start.toNat + count.toNat)) ∧
      execGet start count s = .fault .adcNoAnswer) ∨
    (rangeValid start.toNat count.toNat = false ∧
      execGet start count s = .next (s.raiseFault (.range start.toNat count.toNat))) := by
  cases hr : rangeValid start.toNat count.toNat
  · exact .inr (.inr ⟨rfl, by simp [execGet, hr]⟩)
  · have hv := (rangeValid_iff.1 hr).2
    have hans : ∀ j, answerAt (s.txEcho start count) j = answerAt s j := fun j => rfl
    have hval : ∀ a b, getSlotOutputs a (s.txEcho start count) b = getSlotOutputs a s b := fun a b => rfl
    by_cases ha : Answered s (sensorsBetween start.toNat (start.toNat + count.toNat))
    · obtain ⟨t, ht, he, hf, ho⟩ := readSlots_effect count.toNat start.toNat (s.txEcho start count) hv ha
      refine .inl ⟨rfl, ha, t, by simp [execGet, hr, dispatchGet, ht], ?_, hf, ?_⟩
      · exact ⟨he.pulse, he.enable, he.aux1, he.aux2, he.linkUp, he.muxSel, he.env⟩
      · rw [ho, echo_out]; rfl
    · have := readSlots_stuck count.toNat start.toNat (s.txEcho start count) hv ha
      exact .inr (.inl ⟨rfl, ha, by simp [execGet, hr, dispatchGet, this]⟩)

/-- The two meanings are never refused. -/
theorem exec_not_refused (i : Instr) (s : State) (r : Refusal) : exec i s ≠ .refused r := by
  cases i with
  | set start values =>
    rcases execSet_cases start values s with ⟨_, t, h, _⟩ | ⟨_, h⟩ <;> simp [exec, h]
  | get start count =>
    rcases execGet_cases start count s with ⟨_, _, t, h, _⟩ | ⟨_, _, h⟩ | ⟨_, h⟩ <;> simp [exec, h]

/-- A command leaves the framer in `IDLE` and its other registers alone (40_framer.md R119). -/
theorem exec_framer {i : Instr} {s t : State} (h : exec i s = .next t) :
    t.framer = { s.framer with fsm := .idle } := by
  cases i with
  | set start values =>
    rcases execSet_cases start values s with ⟨_, u, hu, _, hf⟩ | ⟨_, hu⟩ <;> simp only [exec, hu] at h <;> cases h
    · simp [hf]
    · rfl
  | get start count =>
    rcases execGet_cases start count s with ⟨_, _, u, hu, _, hf, _⟩ | ⟨_, _, hu⟩ | ⟨_, hu⟩ <;>
      simp only [exec, hu] at h <;> cases h
    · simp [hf]
    · rfl

/-- What abandoning a packet does (40_framer.md R111): nothing in `IDLE`, else one `F_RESYNC`. -/
theorem resync_eq (s : State) : resync s = { s with
    framer := { s.framer with fsm := .idle }
    out := s.out ++ resyncOutputs s.framer.fsm } := by
  have hid : s.framer.fsm = .idle → s = { s with framer := { s.framer with fsm := .idle }, out := s.out ++ [] } := by
    intro h
    rcases s with ⟨_, _, _, _, _, _, ⟨_, _, _, _, _, _, _⟩, _, _⟩
    simp_all
  unfold resync
  split
  · next h => rw [h]; exact hid h
  all_goals next h => simp [h, resyncOutputs, State.raiseFault, State.notice, State.emit, State.setFsm, State.setFramer]

/-- The last payload byte dispatches the SET (40_framer.md R117). -/
theorem onHighByte_last {d : Byte} {s : State} (h : s.framer.k.toNat + 1 = s.framer.count.toNat) :
    onHighByte d s = execSet s.framer.start ((storePayload d s.framer).buf.toList.take s.framer.count.toNat)
      (s.setFramer (storePayload d s.framer)) := by
  unfold onHighByte
  exact if_pos h

/-- Any other high byte moves on to the next value (R117). -/
theorem onHighByte_more {d : Byte} {s : State} (h : s.framer.k.toNat + 1 ≠ s.framer.count.toNat) :
    onHighByte d s =
      .next (s.setFramer { storePayload d s.framer with k := s.framer.k + 1, fsm := .payLo }) := by
  unfold onHighByte
  exact if_neg h

/-- What one input event can do to the state `u` it finds, if it leaves a next state `t`. -/
inductive EventCase (e : InputEvent) (u t : State) : Prop where
  /-- Reset. -/
  | reset : e = .rst → t = u.applyReset → EventCase e u t
  /-- The link is up. -/
  | link : e = .linkReady → t = u.setLinkUp true → EventCase e u t
  /-- Nothing: the link is down, or the framer is idle. -/
  | quiet : t = u → EventCase e u t
  /-- The framer moves on; nothing is put out. -/
  | move (f : Framer) : u.linkUp = true → (u.framer.Sound → f.Sound) → t = u.setFramer f → EventCase e u t
  /-- Packet faults, and the framer back at the start of a packet; nothing else. -/
  | faults (f : Framer) (ds : List Diag) : u.linkUp = true → f.fsm = .idle ∨ f.fsm = .hdrStart → ds ≠ [] →
      (∀ d ∈ ds, d.code ≤ 5) → t = { u with framer := f, out := u.out ++ ds.map .diag } → EventCase e u t
  /-- A GET is dispatched. -/
  | get (d : Byte) (f : Framer) : e = .byte d → isCommand d = false → u.linkUp = true → u.framer.fsm = .hdrCount →
      u.framer.cmd = .get → rangeValid u.framer.start.toNat (fieldOf d).toNat = true →
      execGet u.framer.start (fieldOf d) (u.setFramer f) = .next t → EventCase e u t
  /-- A SET with no values is dispatched. -/
  | emptySet (d : Byte) (f : Framer) : e = .byte d → isCommand d = false → u.linkUp = true →
      execSet u.framer.start [] (u.setFramer f) = .next t → rangeValid u.framer.start.toNat 0 = true →
      EventCase e u t
  /-- A SET with a payload is dispatched. -/
  | set (d : Byte) (f : Framer) : e = .byte d → isCommand d = false → u.linkUp = true → u.framer.fsm = .payHi →
      u.framer.k.toNat + 1 = u.framer.count.toNat →
      execSet u.framer.start (f.buf.toList.take u.framer.count.toNat) (u.setFramer f) = .next t → EventCase e u t

theorem resyncOutputs_of_ne {q : Fsm} (h : q ≠ .idle) : resyncOutputs q = [.diag (.resync q)] := by
  cases q <;> first | rfl | exact absurd rfl h

theorem sound_of_header {f : Framer} (h1 : f.fsm ≠ .payLo) (h2 : f.fsm ≠ .payHi) : f.Sound := by
  rintro (h | h)
  · exact absurd h h1
  · exact absurd h h2

theorem onCommandByte_case (e : InputEvent) (b : Byte) (u : State) (hl : u.linkUp = true) :
    EventCase e u (onCommandByte b u) := by
  unfold onCommandByte
  rw [resync_eq]
  cases hc : cmdOf b with
  | some c =>
    by_cases hi : u.framer.fsm = .idle
    · refine .move { u.framer with cmd := c, fsm := .hdrStart } hl
        (fun _ => sound_of_header (by simp) (by simp)) ?_
      simp [hi, resyncOutputs, State.setFramer]
    · refine .faults { u.framer with cmd := c, fsm := .hdrStart } [.resync u.framer.fsm] hl (.inr rfl) (by simp)
        (by simp [Diag.code]) ?_
      simp [resyncOutputs_of_ne hi, State.setFramer]
  | none =>
    by_cases hi : u.framer.fsm = .idle
    · refine .faults { u.framer with fsm := .idle } [.badCmd b] hl (.inl rfl) (by simp) (by simp [Diag.code]) ?_
      simp [hi, resyncOutputs, State.raiseFault, State.notice, State.emit, State.setFsm, State.setFramer]
    · refine .faults { u.framer with fsm := .idle } [.resync u.framer.fsm, .badCmd b] hl (.inl rfl) (by simp)
        (by simp [Diag.code]) ?_
      simp [resyncOutputs_of_ne hi, State.raiseFault, State.notice, State.emit, State.setFsm, State.setFramer]

theorem raise_case (e : InputEvent) (u : State) (d : Diag) (hl : u.linkUp = true) (hd : d.code ≤ 5) :
    EventCase e u (u.raiseFault d) :=
  .faults { u.framer with fsm := .idle } [d] hl (.inl rfl) (by simp) (by simpa using hd)
    (by simp [State.raiseFault, State.notice, State.emit, State.setFsm, State.setFramer])

theorem onTimeout_case (e : InputEvent) (u : State) (hl : u.linkUp = true) : EventCase e u (onTimeout u) := by
  unfold onTimeout
  split
  · exact .quiet rfl
  all_goals exact raise_case e u _ hl (by simp [Diag.code])

theorem onDataByte_case (d : Byte) (u t : State) (hd : isCommand d = false) (hl : u.linkUp = true)
    (h : onDataByte d u = .next t) : EventCase (.byte d) u t := by
  unfold onDataByte at h
  split at h
  · cases h; exact .quiet rfl
  · cases h
    exact .move _ hl (fun _ => sound_of_header (by simp) (by simp)) rfl
  · next hq =>
    unfold onCountByte at h
    split at h
    · next hr =>
      split at h
      · next hc => exact .get d _ rfl hd hl hq hc hr h
      · next hc =>
        split at h
        · next hz =>
          refine .emptySet d _ rfl hd hl h ?_
          rw [hz] at hr
          simpa using hr
        · next hz =>
          cases h
          refine .move _ hl (fun _ _ => ?_) rfl
          have hv := rangeValid_iff.1 hr
          have hz' : (fieldOf d).toNat ≠ 0 := fun h0 => hz (BitVec.eq_of_toNat_eq (by simpa using h0))
          refine ⟨hc, hv.1, ?_, hv.2, ?_⟩
          · show 1 ≤ (fieldOf d).toNat
            omega
          · show (0 : BitVec 5).toNat < (fieldOf d).toNat
            simp
            omega
    · cases h
      exact raise_case _ u _ hl (by simp [Diag.code])
  · next hq =>
    cases h
    refine .move _ hl (fun hs _ => ?_) rfl
    exact hs (.inl hq)
  · next hq =>
    by_cases hk : u.framer.k.toNat + 1 = u.framer.count.toNat
    · rw [onHighByte_last hk] at h
      exact .set d _ rfl hd hl hq hk h
    · rw [onHighByte_more hk] at h
      cases h
      refine .move _ hl (fun hs _ => ?_) rfl
      obtain ⟨h1, h2, h3, h4, h5⟩ := hs (.inr hq)
      refine ⟨h1, h2, h3, h4, ?_⟩
      show (u.framer.k + 1).toNat < u.framer.count.toNat
      rw [BitVec.toNat_add]
      simp
      omega

/-- What a step can do. -/
theorem step_cases {s t : State} (h : step s = .next t) : EventCase (nextEvent s).1 (nextEvent s).2 t := by
  unfold step onEvent at h
  split at h
  · next he => cases h; exact .reset he rfl
  · next he => cases h; exact .link he rfl
  · split at h
    · next hl => cases h; exact onTimeout_case _ _ hl
    · cases h; exact .quiet rfl
  · next b he =>
    split at h
    · next hl =>
      unfold onByte at h
      split at h
      · cases h; exact onCommandByte_case _ b _ hl
      · next hb => rw [he]; exact onDataByte_case b _ t (by simpa using hb) hl h
    · cases h; exact .quiet rfl

/-- A step is never refused (60_exceptions.md R231). -/
theorem onEvent_not_refused (e : InputEvent) (s : State) (r : Refusal) : onEvent e s ≠ .refused r := by
  unfold onEvent
  split
  · simp
  · simp
  · split <;> simp
  · split
    · unfold onByte
      split
      · simp
      · unfold onDataByte
        split
        · simp
        · simp
        · unfold onCountByte
          repeat' split
          all_goals first
            | exact exec_not_refused _ _ _
            | simp
        · simp
        · next b _ _ _ =>
          by_cases hk : s.framer.k.toNat + 1 = s.framer.count.toNat
          · rw [onHighByte_last hk]
            exact exec_not_refused (.set _ _) _ _
          · simp [onHighByte_more hk]
    · simp

/-- Storing a payload value extends the values already received by one (40_framer.md R117). -/
theorem storePayload_take {f : Framer} {d : Byte} (h : f.k.toNat < 29) :
    (storePayload d f).buf.toList.take (f.k.toNat + 1) =
      f.buf.toList.take f.k.toNat ++ [dec f.lo (fieldOf d)] := by
  simp only [storePayload, Vector.toList_setIfInBounds, List.take_add_one]
  simp [List.take_set, h]
  rw [List.set_eq_of_length_le (by simp)]

/-- The step of a byte pulled while the link is up (40_framer.md R120). -/
theorem step_byte {s u : State} {b : Byte} (hl : s.linkUp = true) (h : nextEvent s = (.byte b, u)) :
    step s = onByte b u := by
  obtain ⟨e, he, -, -⟩ := nextEvent_eq s
  have hu : u = s.setEnv e := by rw [← he, h]
  subst hu
  simp [step, h, onEvent, hl]

/-! ## Runs of steps -/

/-- A run whose first step has a next state goes on from there. -/
theorem core_run_next (M : Host.Core) (s t : M.State) (n : Nat) (h : M.step s = .next t) :
    M.run (n + 1) s = M.run n t := by
  rw [Host.Core.run, h]

/-- A run of one step is that step. -/
theorem core_run_one (M : Host.Core) (s : M.State) : M.run 1 s = M.step s := by
  rw [Host.Core.run]
  cases M.step s <;> rfl

theorem run_next {s t : State} (n : Nat) (h : step s = .next t) :
    Host.Core.run Sys2Proof.core (n + 1) s = Host.Core.run Sys2Proof.core n t :=
  core_run_next Sys2Proof.core s t n h

theorem run_one (s : State) : Host.Core.run Sys2Proof.core 1 s = step s := core_run_one Sys2Proof.core s

end Sys2Proof.Machine
end

