-- ==== Sys2Proof/Laws/PerInstr.lean ====
section
/-! SUPPORT. Facts about every command as syntax, one lemma per constructor. -/

namespace Sys2Proof.Laws.EncodedForm

/-- The bytes of a well-formed command: as many as the table says, a command byte first and only data bytes after it
(30_encoding.md R73, R74, R79; 70_reset_and_hazards.md R251). -/
def Statement (i : Instr) : Prop :=
  i.wf = true → (encode i).length = i.byteLength ∧
    ∃ c data, encode i = c :: data ∧ isCommand c = true ∧ ∀ b ∈ data, isCommand b = false

theorem payload_length (values : List Val) : (values.flatMap valueBytes).length = 2 * values.length := by
  induction values with
  | nil => rfl
  | cons v vs ih => simp [valueBytes, ih]; omega

theorem payload_data {values : List Val} {b : Byte} (h : b ∈ values.flatMap valueBytes) : isCommand b = false := by
  obtain ⟨v, -, hv⟩ := List.mem_flatMap.1 h
  rcases List.mem_pair.1 hv with rfl | rfl <;> simp

theorem set (start : Field) (values : List Val) : Statement (.set start values) := by
  intro _
  refine ⟨by simp only [encode, List.length_cons, payload_length, Instr.byteLength]; omega, _, _, rfl, rfl, ?_⟩
  intro b hb
  rcases List.mem_cons.1 hb with rfl | hb
  · simp
  · rcases List.mem_cons.1 hb with rfl | hb
    · simp
    · exact payload_data hb

theorem get (start count : Field) : Statement (.get start count) := by
  intro _
  refine ⟨rfl, _, _, rfl, rfl, ?_⟩
  intro b hb
  rcases List.mem_pair.1 hb with rfl | rfl <;> simp

end Sys2Proof.Laws.EncodedForm
end

