-- ==== Sys2Proof/Tests/Slice0.lean ====
section
/-! SUPPORT. The model's own tests (expected results from spec/, the source named at each) and, for every statement
of Obligations.lean that has hypotheses, a witness that they can be met. -/

namespace Sys2Proof.Tests

open Sys2Proof.Machine

/-! ## WellFormed -/

theorem test_wf_bounds : (Instr.get 28 1).wf = true ∧ (Instr.set 0 (List.replicate 29 7)).wf = true := by decide

/-- First check: 95_test_vectors.md 2.2 row 9, `F_RANGE(29, 0)`. -/
theorem test_wf_start : (Instr.get 29 0).startValid = false ∧ (Instr.set 29 []).wf = false := by decide

/-- Second check: 95_test_vectors.md 2.2 row 9, `F_RANGE(28, 2)`, `F_RANGE(127, 127)` (no wrap), `F_RANGE(0, 30)`. -/
theorem test_wf_range : (Instr.get 28 2).rangeFits = false ∧ (Instr.set 28 [0, 0]).wf = false ∧
    (Instr.get 127 127).rangeFits = false ∧ (Instr.get 0 30).wf = false := by decide

/-! ## Decode: words written out from 30_encoding.md R73 and R74 -/

/-- 95_test_vectors.md S6: `SET 0, [1500]`. -/
theorem test_decode_set : decode [0b11010011, 0b00000000, 0b00000001, 0b01011100, 0b00001011] =
    .ok (.set 0 [1500], []) := by decide

/-- 95_test_vectors.md W4: `SET 17, [1500, 7]`, another byte behind it. -/
theorem test_decode_set_two : decode [0xD3, 0x11, 0x02, 0x5C, 0x0B, 0x07, 0x00, 0xC7] =
    .ok (.set 17 [1500, 7], [0xC7]) := by decide

/-- 95_test_vectors.md P2: `GET 17, 10`. -/
theorem test_decode_get : decode [0b11000111, 0b00010001, 0b00001010] = .ok (.get 17 10, []) := by decide

/-- The same three bytes as a word of the command table, the first byte lowest. -/
theorem test_decode_table_word : decodeTableWord 24 0x0A11C7 = some (.get 17 10) ∧
    decodeTableWord 8 0xD3 = some (.set 0 []) := by decide

theorem test_encode : encode (.set 0 [1500, 1000, 2000]) = [0xD3, 0x00, 0x03, 0x5C, 0x0B, 0x68, 0x07, 0x50, 0x0F] ∧
    encode (.get 17 10) = [0xC7, 0x11, 0x0A] := by decide

/-- 95_test_vectors.md 2.1. -/
theorem test_enc : enc 128 = (0x00, 0x01) ∧ enc 255 = (0x7F, 0x01) ∧ enc 1234 = (0x52, 0x09) ∧
    enc 8192 = (0x00, 0x40) ∧ enc 16383 = (0x7F, 0x7F) ∧ dec 0x4C 0x0B = 1484 := by decide

/-- Where the ranges of 20_memory.md R41 meet. -/
theorem test_kind_bounds : kind 0 = .actuator 0 ∧ kind 17 = .actuator 17 ∧ kind 18 = .touch ∧ kind 23 = .touch ∧
    kind 24 = .current ∧ kind 25 = .voltage ∧ kind 26 = .relay ∧ kind 27 = .auxiliary 0 ∧ kind 28 = .auxiliary 1 ∧
    kind 29 = .invalid := by decide

/-! ## Quantisers: 95_test_vectors.md 2.5 -/

theorem test_voltage : quantiseVoltage (16 / 10000) = 0 ∧ quantiseVoltage (33 / 20480) = 1 ∧
    quantiseVoltage (1 / 4) = 78 ∧ quantiseVoltage (33 / 10) = 1024 ∧ quantiseVoltage (84 / 10) = 2607 ∧
    quantiseVoltage (5279 / 100) = 16381 ∧ quantiseVoltage (528 / 10) = 16383 ∧ quantiseVoltage 60 = 16383 ∧
    quantiseVoltage (-1 / 10) = 0 := by decide +kernel

theorem test_current : quantiseCurrent (4069 / 100000) = 512 ∧ quantiseCurrent (407 / 10000) = 513 ∧
    quantiseCurrent (-407 / 10000) = 511 ∧ quantiseCurrent (-2) = 487 ∧ quantiseCurrent 10 = 635 ∧
    quantiseCurrent (-416768 / 10000) = 0 ∧ quantiseCurrent (-50) = 0 ∧ quantiseCurrent (12919 / 10) = 16383 ∧
    quantiseCurrent 1300 = 16383 := by decide +kernel

/-! ## States the tests start from -/

/-- The link is up, every register holds 0, the framer and the next input events as given. -/
def awaiting (f : Framer) (events : List InputEvent) : State :=
  { State.reset with
    pulse := Vector.replicate 18 0
    linkUp := true
    framer := f
    env := { Env.quiet with inbox := events } }

/-- As `awaiting`, with no input event and the next ADC answers as given. -/
def measuring (answers : List (Option AdcAnswer)) : State :=
  { awaiting Framer.reset [] with env := { Env.quiet with adcScript := answers } }

def inHdrStart (c : Cmd) : Framer := { Framer.reset with fsm := .hdrStart, cmd := c }

def inHdrCount (c : Cmd) (start : Field) : Framer := { Framer.reset with fsm := .hdrCount, cmd := c, start := start }

def inPayLo (start count : Field) (k : BitVec 5) : Framer :=
  { Framer.reset with fsm := .payLo, start := start, count := count, k := k }

def inPayHi (start count : Field) (k : BitVec 5) (lo : Field) : Framer :=
  { Framer.reset with fsm := .payHi, start := start, count := count, k := k, lo := lo }

/-- The next state of an outcome, or the given one where it has none. -/
def after (o : Result State) (s : State) : State :=
  match o with
  | .next t => t
  | .fault _ => s
  | .refused _ => s

/-! ## One step or one command -/

/-- 95_test_vectors.md W13 up to its last slot: the pulse, then eight notices, then the relay. -/
theorem test_set_spans_kinds :
    (after (exec (.set 17 [1500, 0, 0, 0, 0, 0, 0, 0, 0, 0]) { awaiting Framer.reset [] with enable := true })
      State.reset).out =
    [.pulse 17 1500, .diag (.setRo 18), .diag (.setRo 19), .diag (.setRo 20), .diag (.setRo 21), .diag (.setRo 22),
      .diag (.setRo 23), .diag (.setRo 24), .diag (.setRo 25), .enable false] := by decide

/-- 95_test_vectors.md W7 and W11: any nonzero value is 1; each latch its own channel. -/
theorem test_set_latches :
    (after (exec (.set 26 [128]) (awaiting Framer.reset [])) State.reset).enable = true ∧
    (after (exec (.set 27 [1, 0]) (awaiting Framer.reset [])) State.reset).aux1 = true ∧
    (after (exec (.set 27 [1, 0]) (awaiting Framer.reset [])) State.reset).aux2 = false := by decide

/-- 95_test_vectors.md P2: one GET across the kinds, a failing and a saturating read among them. -/
theorem test_get_spans_kinds :
    (after (exec (.get 17 10)
        { measuring [some (.ok (1 / 2)), some (.ok (33 / 10)), some .fail, some (.ok 0), some (.ok (165 / 100)),
            some (.ok 60), some (.ok (-2)), some (.ok (84 / 10))] with pulse := Vector.replicate 18 1200 })
      State.reset).txStream =
    [0xC7, 0x11, 0x0A, 0x30, 0x09, 0x1B, 0x01, 0x00, 0x08, 0x7F, 0x7F, 0x00, 0x00, 0x00, 0x04, 0x7F, 0x7F, 0x67, 0x03,
      0x2F, 0x14, 0x00, 0x00] := by decide +kernel

/-- 95_test_vectors.md G9: the notice; and an answer that never comes is the stuck state
(93_implementation_defined.md S1). -/
theorem test_get_failures :
    (after (exec (.get 18 2) (measuring [some .fail, some (.ok 1)])) State.reset).diags = [.adcFail 18] ∧
    exec (.get 18 2) (measuring [some (.ok 1), none]) = .fault .adcNoAnswer := by
  constructor
  · decide +kernel
  · rfl

/-- 95_test_vectors.md 2.2, row 1 with row 4, row 9 without wrap, and F6. -/
theorem test_framer :
    (after (step (awaiting (inHdrStart .get) [.byte 0x80])) State.reset).diags =
      [.resync .hdrStart, .badCmd 0x80] ∧
    (after (step (awaiting (inHdrCount .get 127) [.byte 0x7F])) State.reset).out = [.diag (.range 127 127)] ∧
    (after (step (awaiting (inPayLo 0 2 1) [.timeout])) State.reset).out = [.diag (.payTimeout 1)] := by decide

/-- A word of the command table, placed and run as the first instruction after reset. -/
theorem test_placed :
    (after (step (State.reset.withFetchWord 8 0xC7)) State.reset).txStream = [0xC7, 0x00, 0x00] ∧
    (after (step (State.reset.withFetchWord 40 0x01011AD3)) State.reset).enable = true := by decide

/-! ## Witnesses: the hypotheses of each statement of Obligations.lean, met together -/

theorem witness_DecodeOfEncodeIsInstruction :
    (Instr.set 0 (List.replicate 29 16383)).wf = true ∧ (Instr.get 28 1).wf = true := by decide

theorem witness_DecodeAcceptsOnlyEncodings : decode [0xC7, 0x1C, 0x01, 0x55] = .ok (.get 28 1, [0x55]) := by decide

theorem witness_IllegalBytesRejected_data : isCommand 0x00 = false ∧ isCommand 0x7F = false := by decide

theorem witness_IllegalBytesRejected_command :
    isCommand 0x80 = true ∧ (0x80 : Byte) ≠ 0xD3 ∧ (0x80 : Byte) ≠ 0xC7 ∧ isCommand 0xFF = true := by decide

theorem witness_ChannelMapInjective : 28 ≤ 28 ∧ channelMap 28 = channelMap 28 ∧ channelMap 29 = none :=
  ⟨by decide, rfl, rfl⟩

/-- The link not yet up, a timeout offered. -/
def waiting : State := { State.reset with env := { Env.quiet with inbox := [.timeout] } }

theorem waiting_inv : waiting.Inv :=
  ⟨sound_of_header (by decide) (by decide), fun _ => ⟨rfl, rfl, rfl, rfl, rfl, rfl⟩, .inl rfl⟩

/-- The last byte of a payload, the state of the invariant with most to say. -/
theorem last_byte_inv : (awaiting (inPayHi 0 29 28 0x5C) [.byte 0x0B]).Inv :=
  ⟨fun _ => by decide, fun h => absurd h (by decide), .inl rfl⟩

theorem witness_StepKeepsInvariant :
    (awaiting (inPayHi 0 29 28 0x5C) [.byte 0x0B]).Inv ∧
      ∃ t, step (awaiting (inPayHi 0 29 28 0x5C) [.byte 0x0B]) = .next t :=
  ⟨last_byte_inv, _, rfl⟩

theorem witness_StepKeepsWholeResponses :
    Responses (awaiting (inHdrCount .get 28) [.byte 0x00]).txStream ∧
      ∃ t, step (awaiting (inHdrCount .get 28) [.byte 0x00]) = .next t :=
  ⟨.none, _, rfl⟩

theorem witness_EventsTakenInOrder :
    (awaiting Framer.reset [.timeout, .rst]).env.inbox = .timeout :: [.rst] := rfl

/-- Taking the one listed event of `awaiting`. -/
theorem awaiting_next (f : Framer) (e : InputEvent) : nextEvent (awaiting f [e]) = (e, awaiting f []) := rfl

theorem witness_NothingPulledWhileLinkDown :
    nextEvent { awaiting Framer.reset [.byte 0xC7] with linkUp := false } =
        (.byte 0xC7, { awaiting Framer.reset [] with linkUp := false }) ∧
      nextEvent { awaiting Framer.reset [.timeout] with linkUp := false } =
        (.timeout, { awaiting Framer.reset [] with linkUp := false }) := ⟨rfl, rfl⟩

theorem witness_LinkReadySetsLinkUp :
    nextEvent (awaiting Framer.reset [.linkReady]) = (.linkReady, awaiting Framer.reset []) ∧
      (awaiting Framer.reset [.linkReady]).linkUp = true := ⟨rfl, rfl⟩

theorem witness_ResetInputResets :
    nextEvent (awaiting (inPayHi 0 2 0 1) [.rst]) = (.rst, awaiting (inPayHi 0 2 0 1) []) := rfl

theorem witness_IdleIgnoresDataAndTimeouts :
    nextEvent (awaiting Framer.reset [.byte 0x7F]) = (.byte 0x7F, awaiting Framer.reset []) ∧
      nextEvent (awaiting Framer.reset [.timeout]) = (.timeout, awaiting Framer.reset []) ∧
      (awaiting Framer.reset [.byte 0x7F]).linkUp = true ∧
      (awaiting Framer.reset [.byte 0x7F]).framer.fsm = .idle ∧ isCommand 0x7F = false :=
  ⟨rfl, rfl, rfl, rfl, rfl⟩

theorem witness_CommandByteStartsPacket :
    (awaiting Framer.reset [.byte 0xD3]).linkUp = true ∧ (awaiting Framer.reset [.byte 0xD3]).framer.fsm = .idle ∧
      nextEvent (awaiting Framer.reset [.byte 0xD3]) = (.byte 0xD3, awaiting Framer.reset []) ∧
      nextEvent (awaiting Framer.reset [.byte 0xC7]) = (.byte 0xC7, awaiting Framer.reset []) :=
  ⟨rfl, rfl, rfl, rfl⟩

theorem witness_IllegalCommandByteFaults :
    nextEvent (awaiting (inHdrCount .set 0) [.byte 0x80]) = (.byte 0x80, awaiting (inHdrCount .set 0) []) ∧
      (awaiting (inHdrCount .set 0) [.byte 0x80]).linkUp = true ∧ isCommand 0x80 = true ∧
      (0x80 : Byte) ≠ 0xD3 ∧ (0x80 : Byte) ≠ 0xC7 :=
  ⟨rfl, rfl, rfl, by decide, by decide⟩

theorem witness_CommandByteAbandonsPacket :
    (awaiting (inPayHi 0 2 0 0x5C) [.byte 0xC7]).linkUp = true ∧
      (awaiting (inPayHi 0 2 0 0x5C) [.byte 0xC7]).framer.fsm ≠ .idle ∧
      nextEvent (awaiting (inPayHi 0 2 0 0x5C) [.byte 0xD3]) = (.byte 0xD3, awaiting (inPayHi 0 2 0 0x5C) []) ∧
      nextEvent (awaiting (inPayHi 0 2 0 0x5C) [.byte 0xC7]) = (.byte 0xC7, awaiting (inPayHi 0 2 0 0x5C) []) ∧
      nextEvent (awaiting (inPayHi 0 2 0 0x5C) [.byte 0xFF]) = (.byte 0xFF, awaiting (inPayHi 0 2 0 0x5C) []) ∧
      isCommand 0xFF = true ∧ (0xFF : Byte) ≠ 0xD3 ∧ (0xFF : Byte) ≠ 0xC7 :=
  ⟨rfl, by decide, rfl, rfl, rfl, rfl, by decide, by decide⟩

theorem witness_HeaderTimeoutAbandonsPacket :
    nextEvent (awaiting (inHdrCount .get 0) [.timeout]) = (.timeout, awaiting (inHdrCount .get 0) []) ∧
      (awaiting (inHdrCount .get 0) [.timeout]).linkUp = true ∧
      (awaiting (inHdrCount .get 0) [.timeout]).framer.fsm = .hdrCount ∧
      (awaiting (inHdrStart .get) [.timeout]).framer.fsm = .hdrStart := ⟨rfl, rfl, rfl, rfl⟩

theorem witness_PayloadTimeoutAbandonsPacket :
    nextEvent (awaiting (inPayLo 0 2 1) [.timeout]) = (.timeout, awaiting (inPayLo 0 2 1) []) ∧
      (awaiting (inPayLo 0 2 1) [.timeout]).linkUp = true ∧
      (awaiting (inPayLo 0 2 1) [.timeout]).framer.fsm = .payLo ∧
      (awaiting (inPayHi 0 2 1 0) [.timeout]).framer.fsm = .payHi := ⟨rfl, rfl, rfl, rfl⟩

theorem witness_StartByteLatched :
    nextEvent (awaiting (inHdrStart .get) [.byte 0x7F]) = (.byte 0x7F, awaiting (inHdrStart .get) []) ∧
      (awaiting (inHdrStart .get) [.byte 0x7F]).linkUp = true ∧ isCommand 0x7F = false ∧
      (awaiting (inHdrStart .get) [.byte 0x7F]).framer.fsm = .hdrStart := ⟨rfl, rfl, rfl, rfl⟩

/-- The first clause of the range check alone (start 29, count 0), and the second alone (start 28, count 2). -/
theorem witness_RangeFaultDropsPacket :
    nextEvent (awaiting (inHdrCount .get 28) [.byte 0x02]) = (.byte 0x02, awaiting (inHdrCount .get 28) []) ∧
      (awaiting (inHdrCount .get 28) [.byte 0x02]).linkUp = true ∧ isCommand 0x02 = false ∧
      (awaiting (inHdrCount .get 28) [.byte 0x02]).framer.fsm = .hdrCount ∧
      ¬ ((inHdrCount .get 28).start.toNat ≤ 28 ∧ (inHdrCount .get 28).start.toNat + (0x02 : Byte).toNat ≤ 29) ∧
      ¬ ((inHdrCount .set 29).start.toNat ≤ 28 ∧ (inHdrCount .set 29).start.toNat + (0x00 : Byte).toNat ≤ 29) :=
  ⟨rfl, rfl, rfl, rfl, by decide, by decide⟩

theorem witness_CountByteAwaitsPayload :
    nextEvent (awaiting (inHdrCount .set 0) [.byte 0x1D]) = (.byte 0x1D, awaiting (inHdrCount .set 0) []) ∧
      (awaiting (inHdrCount .set 0) [.byte 0x1D]).linkUp = true ∧ isCommand 0x1D = false ∧
      (inHdrCount .set 0).fsm = .hdrCount ∧ (inHdrCount .set 0).cmd = .set ∧ 1 ≤ (0x1D : Byte).toNat ∧
      (inHdrCount .set 0).start.toNat ≤ 28 ∧ (inHdrCount .set 0).start.toNat + (0x1D : Byte).toNat ≤ 29 :=
  ⟨rfl, rfl, rfl, rfl, rfl, by decide, by decide, by decide⟩

theorem witness_EmptySetChangesNothing :
    nextEvent (awaiting (inHdrCount .set 28) [.byte 0x00]) = (.byte 0x00, awaiting (inHdrCount .set 28) []) ∧
      (awaiting (inHdrCount .set 28) [.byte 0x00]).linkUp = true ∧ (inHdrCount .set 28).fsm = .hdrCount ∧
      (inHdrCount .set 28).cmd = .set ∧ (inHdrCount .set 28).start.toNat ≤ 28 :=
  ⟨rfl, rfl, rfl, rfl, by decide⟩

theorem witness_GetHeaderDispatches :
    nextEvent (awaiting (inHdrCount .get 28) [.byte 0x00]) = (.byte 0x00, awaiting (inHdrCount .get 28) []) ∧
      (awaiting (inHdrCount .get 28) [.byte 0x00]).linkUp = true ∧ isCommand 0x00 = false ∧
      (inHdrCount .get 28).fsm = .hdrCount ∧ (inHdrCount .get 28).cmd = .get ∧
      (inHdrCount .get 28).start.toNat ≤ 28 ∧ (inHdrCount .get 28).start.toNat + (0x00 : Byte).toNat ≤ 29 ∧
      ∃ t, step (awaiting (inHdrCount .get 28) [.byte 0x00]) = .next t :=
  ⟨rfl, rfl, rfl, rfl, rfl, by decide, by decide, _, rfl⟩

theorem witness_LowByteLatched :
    nextEvent (awaiting (inPayLo 0 1 0) [.byte 0x5C]) = (.byte 0x5C, awaiting (inPayLo 0 1 0) []) ∧
      (awaiting (inPayLo 0 1 0) [.byte 0x5C]).linkUp = true ∧ isCommand 0x5C = false ∧
      (inPayLo 0 1 0).fsm = .payLo := ⟨rfl, rfl, rfl, rfl⟩

/-- The next to last value of the longest payload. -/
theorem witness_HighByteStoresOrDispatches_more :
    nextEvent (awaiting (inPayHi 0 29 27 0x5C) [.byte 0x0B]) = (.byte 0x0B, awaiting (inPayHi 0 29 27 0x5C) []) ∧
      (awaiting (inPayHi 0 29 27 0x5C) [.byte 0x0B]).linkUp = true ∧ isCommand 0x0B = false ∧
      (inPayHi 0 29 27 0x5C).Sound ∧ (inPayHi 0 29 27 0x5C).fsm = .payHi ∧
      (∀ (j : Nat) (hj : j < 29), ((Vector.replicate 29 (0 : Val)).set 27 1500)[j] =
        if j = (inPayHi 0 29 27 0x5C).k.toNat then dec (inPayHi 0 29 27 0x5C).lo ((0x0B : Byte).extractLsb' 0 7)
        else (inPayHi 0 29 27 0x5C).buf[j]) ∧
      (inPayHi 0 29 27 0x5C).k.toNat + 1 < (inPayHi 0 29 27 0x5C).count.toNat :=
  ⟨rfl, rfl, rfl, fun _ => by decide, rfl, by decide, by decide⟩

/-- The last value of the longest payload. -/
theorem witness_HighByteStoresOrDispatches_last :
    nextEvent (awaiting (inPayHi 0 29 28 0x5C) [.byte 0x0B]) = (.byte 0x0B, awaiting (inPayHi 0 29 28 0x5C) []) ∧
      (awaiting (inPayHi 0 29 28 0x5C) [.byte 0x0B]).linkUp = true ∧ isCommand 0x0B = false ∧
      (inPayHi 0 29 28 0x5C).Sound ∧ (inPayHi 0 29 28 0x5C).fsm = .payHi ∧
      (∀ (j : Nat) (hj : j < 29), ((Vector.replicate 29 (0 : Val)).set 28 1500)[j] =
        if j = (inPayHi 0 29 28 0x5C).k.toNat then dec (inPayHi 0 29 28 0x5C).lo ((0x0B : Byte).extractLsb' 0 7)
        else (inPayHi 0 29 28 0x5C).buf[j]) ∧
      (inPayHi 0 29 28 0x5C).k.toNat + 1 = (inPayHi 0 29 28 0x5C).count.toNat :=
  ⟨rfl, rfl, rfl, fun _ => by decide, rfl, by decide, by decide⟩

theorem witness_StepRunsDecodedPacket :
    (inPayHi 0 1 0 0x5C).Sound ∧ (awaiting (inPayHi 0 1 0 0x5C) [.byte 0x0B]).linkUp = true ∧
      nextEvent (awaiting (inPayHi 0 1 0 0x5C) [.byte 0x0B]) = (.byte 0x0B, awaiting (inPayHi 0 1 0 0x5C) []) ∧
      decode ((inPayHi 0 1 0 0x5C).pulled ++ [0x0B]) = .ok (.set 0 [1500], []) ∧
      decode ((inHdrCount .get 17).pulled ++ [0x0A]) = .ok (.get 17 10, []) :=
  ⟨fun _ => by decide, rfl, rfl, by decide, by decide⟩

theorem witness_PlacedWordIsRun : decodeTableWord 8 0xC7 = some (.get 0 0) ∧
    decodeTableWord 40 0x01011AD3 = some (.set 26 [1]) := by decide

theorem witness_ResyncRunsWholePacket :
    (awaiting (inPayHi 0 2 0 0x5C) [.byte 0xC7, .byte 0x00, .byte 0x01]).linkUp = true ∧ (Instr.get 0 1).wf = true ∧
      (awaiting (inPayHi 0 2 0 0x5C) [.byte 0xC7, .byte 0x00, .byte 0x01]).env.inbox =
        (encode (.get 0 1)).map .byte ++ [] := ⟨rfl, rfl, rfl⟩

theorem witness_PacketFaultHasNoEffect :
    step (awaiting (inHdrCount .get 29) [.byte 0x00]) =
        .next ((awaiting (inHdrCount .get 29) []).raiseFault (.range 29 0)) ∧
      ((awaiting (inHdrCount .get 29) []).raiseFault (.range 29 0)).out =
        (awaiting (inHdrCount .get 29) [.byte 0x00]).out ++ [.diag (.range 29 0)] ∧
      Output.diag (.range 29 0) ∈ [Output.diag (.range 29 0)] ∧ (Diag.range 29 0).code ≤ 5 :=
  ⟨rfl, rfl, by decide, by decide⟩

theorem witness_OnlyGetDispatchSends :
    ∃ t, step (awaiting (inHdrCount .get 28) [.byte 0x01]) = .next t ∧
      t.txStream ≠ (awaiting (inHdrCount .get 28) [.byte 0x01]).txStream :=
  ⟨_, rfl, by decide⟩

/-- A SET of channels 26, 27 and 28 to 1, one payload byte short. -/
def latchesToOne : Framer :=
  { inPayHi 26 3 2 1 with buf := (Vector.replicate 29 0).set 0 1 |>.set 1 1 }

theorem witness_LatchesChangeOnlyByTheirSlots :
    ∃ t, step (awaiting latchesToOne [.byte 0x00]) = .next t ∧
      t.enable ≠ (awaiting latchesToOne [.byte 0x00]).enable ∧ t.aux1 ≠ (awaiting latchesToOne [.byte 0x00]).aux1 ∧
      t.aux2 ≠ (awaiting latchesToOne [.byte 0x00]).aux2 :=
  ⟨_, rfl, by decide, by decide, by decide⟩

theorem witness_PulseChangesOnlyByItsSlot :
    ∃ t, step (awaiting (inPayHi 17 1 0 0x5C) [.byte 0x0B]) = .next t ∧
      t.pulse[(17 : Fin 18).val] ≠ (awaiting (inPayHi 17 1 0 0x5C) [.byte 0x0B]).pulse[(17 : Fin 18).val] :=
  ⟨_, rfl, by decide⟩

theorem witness_StepStopsOnlyOnUnansweredRead : none ∉ (measuring [some .fail]).env.adcScript := by decide

theorem witness_SetCompletesWithItsEffect :
    (Instr.set 0 (List.replicate 29 1)).wf = true ∧ (Instr.set 28 [1]).wf = true ∧ (Instr.set 28 []).wf = true := by
  decide

theorem witness_SetActuatorStores : (17 : Field).toNat = (17 : Fin 18).val ∧ (0 : Field).toNat = (0 : Fin 18).val := by
  decide

theorem witness_SetSensorIsSkipped : 18 ≤ 18 ∧ 18 ≤ 25 ∧ 18 ≤ 25 ∧ 25 ≤ 25 := by decide

/-- Every clause of SET's frame: a SET of channel 17 alone covers none of 0, 26, 27, 28. -/
theorem witness_SetFrame :
    (∃ t, exec (.set 17 [1500]) (awaiting Framer.reset []) = .next t) ∧
      ¬ ((17 : Field).toNat ≤ (16 : Fin 18).val ∧ (16 : Fin 18).val < (17 : Field).toNat + [(1500 : Val)].length) ∧
      ¬ ((17 : Field).toNat ≤ 26 ∧ 26 < (17 : Field).toNat + [(1500 : Val)].length) ∧
      ¬ ((17 : Field).toNat ≤ 27 ∧ 27 < (17 : Field).toNat + [(1500 : Val)].length) ∧
      ¬ ((17 : Field).toNat ≤ 28 ∧ 28 < (17 : Field).toNat + [(1500 : Val)].length) :=
  ⟨⟨_, rfl⟩, by decide, by decide, by decide, by decide⟩

theorem witness_GetCompletesWithItsEffect :
    (Instr.get 24 5).wf = true ∧
      Answered (measuring [some (.ok 1), some .fail]) (sensorsBetween (24 : Field).toNat ((24 : Field).toNat + (5 : Field).toNat)) := by
  refine ⟨rfl, fun j hj => ?_⟩
  match j, hj with
  | 0, _ => decide
  | 1, _ => decide

theorem witness_GetActuatorReturnsStored : (17 : Field).toNat = (17 : Fin 18).val := by decide

theorem witness_GetSensorSelectsThenReads :
    18 ≤ (18 : Field).toNat ∧ (18 : Field).toNat ≤ 25 ∧ 18 ≤ (25 : Field).toNat ∧ (25 : Field).toNat ≤ 25 ∧
      answerAt (measuring [some (.ok (1 / 2))]) 0 = some (.ok (1 / 2)) ∧
      answerAt (measuring [some .fail]) 0 = some .fail :=
  ⟨by decide, by decide, by decide, by decide, rfl, rfl⟩

theorem witness_GetSendsOneWholeResponse :
    (Instr.get 25 4).wf = true ∧ ∃ t, exec (.get 25 4) (measuring [some .fail]) = .next t := ⟨rfl, _, rfl⟩

/-- A GET that ends just below the sensors, one that starts just above them, one of no slot amid them, and one that leaves
the channel map. -/
theorem witness_GetFrame :
    (∃ t, exec (.get 17 1) (measuring []) = .next t) ∧ (17 : Field).toNat + (1 : Field).toNat ≤ 18 ∧
      (∃ t, exec (.get 26 3) (measuring []) = .next t) ∧ 26 ≤ (26 : Field).toNat ∧
      (∃ t, exec (.get 19 0) (measuring []) = .next t) ∧
      (∃ t, exec (.get 20 10) (measuring []) = .next t) ∧ 29 < (20 : Field).toNat + (10 : Field).toNat :=
  ⟨⟨_, rfl⟩, by decide, ⟨_, rfl⟩, by decide, ⟨_, rfl⟩, ⟨_, rfl⟩, by decide⟩

theorem witness_UnansweredReadIsStuck :
    (Instr.get 24 2).wf = true ∧ exec (.get 24 2) (measuring [some .fail, none]) = .fault .adcNoAnswer ∧
      ∃ t, exec (.get 24 2) (measuring [some .fail, some .fail]) = .next t := ⟨rfl, rfl, _, rfl⟩

theorem witness_OutOfRangeCommandIsDropped : (Instr.get 29 0).wf = false ∧ (Instr.set 28 [1, 1]).wf = false := by
  decide

theorem witness_GetReturnsLastSet :
    (∃ t, exec (.set 17 [1500]) (awaiting Framer.reset []) = .next t) ∧ (17 : Field).toNat ≤ 17 ∧
      (∃ t, exec (.set 26 [2]) (awaiting Framer.reset []) = .next t) ∧ 26 ≤ (26 : Field).toNat ∧
      (26 : Field).toNat ≤ 28 ∧ (∃ t, exec (.set 28 [0]) (awaiting Framer.reset []) = .next t) ∧
      (28 : Field).toNat ≤ 28 :=
  ⟨⟨_, rfl⟩, by decide, ⟨_, rfl⟩, by decide, by decide, ⟨_, rfl⟩, by decide⟩

theorem witness_ModeFollowsLinkAndEnable :
    waiting.Inv ∧ waiting.mode = .waitLink ∧ (awaiting (inPayHi 0 29 28 0x5C) [.byte 0x0B]).Inv ∧
      (awaiting (inPayHi 0 29 28 0x5C) [.byte 0x0B]).mode = .runDisabled := ⟨waiting_inv, rfl, last_byte_inv, rfl⟩

theorem witness_SetSlotCalls : 18 ≤ 18 ∧ 25 ≤ 25 ∧ ((27 : Nat) = 27 ∨ 27 = 28) ∧ ((28 : Nat) = 27 ∨ 28 = 28) := by
  decide

/-- The ties nearest zero: 1/2 and -1/2. -/
theorem witness_RoundsHalfAwayFromZero :
    (0 : Int) ≤ 0 ∧ (1 / 2 : Rat) = ((0 : Int) : Rat) + 1 / 2 ∧ (-1 : Int) < 0 ∧
      (-1 / 2 : Rat) = ((-1 : Int) : Rat) + 1 / 2 := by decide +kernel

theorem witness_SaturatesToFourteenBits : (-1 : Int) < 0 ∧ (16383 : Int) < 16384 ∧ (0 : Int) ≤ 0 ∧
    (0 : Int) ≤ 16383 ∧ (16383 : Int) ≤ 16383 := by decide

theorem witness_QuantisersMonotone : (16 / 10000 : Rat) ≤ 33 / 20480 := by decide +kernel

end Sys2Proof.Tests
end

section
/-! What can change a pulse cell (10_state.md R14), from a command up to a step. -/

namespace Sys2Proof.Machine

/-- A SET's effect on a pulse cell reaches only the channels its range covers (41_set.md R130, R133). -/
theorem SetEffect.covers_of_pulse_ne {start : Nat} {values : List Val} {s t : State} {ch : Fin 18}
    (h : SetEffect start values s t) (hne : t.pulse[ch.val] ≠ s.pulse[ch.val]) :
    start ≤ ch.val ∧ ch.val < start + values.length := by
  rw [← written_isSome, Option.isSome_iff_ne_none]
  intro hnone
  exact hne (by rw [h.pulse ch, hnone, Option.getD_none])

theorem execSet_covers_of_pulse_ne {start : Field} {values : List Val} {s t : State} {ch : Fin 18}
    (h : execSet start values s = .next t) (hne : t.pulse[ch.val] ≠ s.pulse[ch.val]) :
    start.toNat ≤ ch.val ∧ ch.val < start.toNat + values.length := by
  rcases execSet_cases start values s with ⟨-, u, hu, heffect, -⟩ | ⟨-, hu⟩ <;> rw [hu] at h <;> cases h
  · exact heffect.covers_of_pulse_ne hne
  · exact absurd rfl hne

theorem execGet_pulse {start count : Field} {s t : State} (h : execGet start count s = .next t) :
    t.pulse = s.pulse := by
  rcases execGet_cases start count s with ⟨-, -, u, hu, heffect, -⟩ | ⟨-, -, hu⟩ | ⟨-, hu⟩ <;> rw [hu] at h <;> cases h
  · exact heffect.pulse
  · rfl

/-- An event that changes a pulse cell is reset, or the last payload byte of a SET that covers the cell's channel. -/
theorem EventCase.rst_or_set_of_pulse_ne {e : InputEvent} {u t : State} {ch : Fin 18} (h : EventCase e u t)
    (hne : t.pulse[ch.val] ≠ u.pulse[ch.val]) :
    e = .rst ∨ u.linkUp = true ∧ u.framer.fsm = .payHi ∧ u.framer.k.toNat + 1 = u.framer.count.toNat ∧
      u.framer.start.toNat ≤ ch.val ∧ ch.val < u.framer.start.toNat + u.framer.count.toNat ∧
      ∃ d, e = .byte d ∧ isCommand d = false := by
  cases h with
  | reset he => exact .inl he
  | link _ ht => exact absurd (by simp [ht]) hne
  | quiet ht => exact absurd (by rw [ht]) hne
  | move f _ _ ht => exact absurd (by simp [ht]) hne
  | faults f ds _ _ _ _ ht => exact absurd (by rw [ht]) hne
  | get d f _ _ _ _ _ _ hexec => exact absurd (by simp [execGet_pulse hexec]) hne
  | emptySet d f _ _ _ hexec =>
    have hcover := execSet_covers_of_pulse_ne hexec hne
    simp only [List.length_nil] at hcover
    omega
  | set d f he hd hlink hfsm hlast hexec =>
    have hcover := execSet_covers_of_pulse_ne hexec hne
    have hlength := List.length_take_le u.framer.count.toNat f.buf.toList
    exact .inr ⟨hlink, hfsm, hlast, hcover.1, by omega, d, he, hd⟩

/-- Settles O36: of the cases of a step only reset and the dispatch of a SET touch the pulse cells, and the SET only
those its range covers. -/
theorem pulseChangesOnlyByItsSlot : Obligations.PulseChangesOnlyByItsSlot := by
  intro s t ch hstep hne
  obtain ⟨env, henv, -, -⟩ := nextEvent_eq s
  have hcase := step_cases hstep
  rw [henv] at hcase
  rcases hcase.rst_or_set_of_pulse_ne hne with hrst | ⟨hlink, hfsm, hlast, hlow, hhigh, d, hbyte, hd⟩
  · exact .inl hrst
  · exact .inr ⟨hlink, hfsm, hlast, hlow, hhigh, d, _, Prod.ext hbyte rfl, hd⟩

end Sys2Proof.Machine
end

section
/-! The partition of the index space by kind (20_memory.md R41). -/

namespace Sys2Proof.Machine

/-- `invalid` is the kind of exactly the indices outside the channel map (R41's last arm). -/
theorem kind_eq_invalid_iff {idx : Nat} : kind idx = .invalid ↔ 29 ≤ idx := by
  constructor
  · intro hk
    by_contra hlt
    exact kind_ne_invalid (by omega) hk
  · intro h
    unfold kind
    repeat rw [dif_neg (by omega)]
    repeat rw [if_neg (by omega)]

/-- Settles O7: an index above 28 is invalid, and one of the channel map falls in one row of R41's table, whose kind
differs from every other row's. -/
theorem channelPartition : Obligations.ChannelPartition := by
  intro idx
  rcases Nat.lt_or_ge 28 idx with hout | hin
  · have hk := kind_eq_invalid_iff.2 hout
    simp only [hk, kind_actuator, reduceCtorEq, exists_const, implies_true, true_iff, false_iff, true_and]
    omega
  · rcases kind_cases hin with
      ⟨ch, rfl, hk⟩ | ⟨hlow, hhigh, hk⟩ | ⟨rfl, hk⟩ | ⟨rfl, hk⟩ | ⟨rfl, hk⟩ | ⟨rfl, hk⟩ | ⟨rfl, hk⟩
    · simp only [kind_actuator, Kind.actuator.injEq, exists_eq', reduceCtorEq, implies_true, true_iff, false_iff,
        true_and]
      omega
    · simp only [hk, kind_actuator, reduceCtorEq, exists_const, implies_true, true_iff, false_iff, true_and]
      omega
    all_goals simp [hk, kind_actuator]

end Sys2Proof.Machine
end

section
/-! The bytes of the pseudo-commands (30_encoding.md R91). -/

namespace Sys2Proof

/-- A SET of one value is five bytes: its header, with count 1, and the value's two halves (R73, R78). -/
theorem encode_set_singleton (start : Field) (v : Val) :
    encode (.set start [v]) =
      [Config.cmdSet, dataByte start, 0x01, dataByte (v.extractLsb' 0 7), dataByte (v.extractLsb' 7 7)] := rfl

/-- The data byte of an actuator channel is the channel's number: it fits in seven bits (R70, R76). -/
theorem dataByte_actuator (ch : Fin 18) : dataByte (BitVec.ofNat 7 ch.val) = BitVec.ofNat 8 ch.val :=
  BitVec.setWidth_ofNat_of_le_of_lt (by decide) (by omega)

/-- Settles O6: `READ` is a GET, `NOP` a SET of no value, and every other pseudo-command a SET of one value. -/
theorem pseudoCommandsExpand : Obligations.PseudoCommandsExpand := by
  refine ⟨encode_set_singleton 26 1, encode_set_singleton 26 0, ?pulse, ?aux, fun _ => rfl, rfl⟩
  case pulse =>
    intro ch v
    rw [expand, encode_set_singleton, dataByte_actuator]
    rfl
  case aux =>
    intro b
    cases b with
    | false => exact ⟨encode_set_singleton 27 0, encode_set_singleton 28 0⟩
    | true => exact ⟨encode_set_singleton 27 1, encode_set_singleton 28 1⟩

end Sys2Proof
end

section
/-! A step by the class of its event (40_framer.md R100, R102, R120): the step's outcome, said at the state that taking
the event leaves. -/

namespace Sys2Proof.Machine

/-- The state a taken event leaves differs from the one before on the environment's side only (R101). -/
theorem exists_setEnv_of_nextEvent {s u : State} {e : InputEvent} (h : nextEvent s = (e, u)) :
    ∃ env, u = s.setEnv env := by
  obtain ⟨env, henv, -, -⟩ := nextEvent_eq s
  exact ⟨env, by rw [← henv, h]⟩

theorem step_of_nextEvent {s u : State} {e : InputEvent} (h : nextEvent s = (e, u)) : step s = onEvent e u := by
  rw [step, h]

theorem step_timeout {s u : State} (h : nextEvent s = (.timeout, u)) (hlink : s.linkUp = true) :
    step s = .next (onTimeout u) := by
  obtain ⟨env, rfl⟩ := exists_setEnv_of_nextEvent h
  rw [step_of_nextEvent h]
  exact if_pos hlink

theorem step_commandByte {s u : State} {c : Byte} (h : nextEvent s = (.byte c, u)) (hlink : s.linkUp = true)
    (hc : isCommand c = true) : step s = .next (onCommandByte c u) := by
  rw [step_byte hlink h, onByte, if_pos hc]

theorem step_dataByte {s u : State} {d : Byte} (h : nextEvent s = (.byte d, u)) (hlink : s.linkUp = true)
    (hd : isCommand d = false) : step s = onDataByte d u := by
  rw [step_byte hlink h, onByte, if_neg (by simp [hd])]

/-- Settles O15: LinkReady's step is one register write, which writes nothing new when the link is up. -/
theorem linkReadySetsLinkUp : Obligations.LinkReadySetsLinkUp := by
  intro s u hnext
  obtain ⟨env, rfl⟩ := exists_setEnv_of_nextEvent hnext
  have hstep := step_of_nextEvent hnext
  refine ⟨hstep, fun hlink => hstep.trans ?_⟩
  simp [onEvent, State.setLinkUp, State.setEnv, ← hlink]

end Sys2Proof.Machine
end

section
/-! Timeouts, by the framer's state, and what `IDLE` ignores (40_framer.md R105, R107, R112, R118). -/

namespace Sys2Proof.Machine

theorem onTimeout_idle {s : State} (h : s.framer.fsm = .idle) : onTimeout s = s := by
  simp [onTimeout, h]

theorem onTimeout_header {s : State} (h : s.framer.fsm = .hdrStart ∨ s.framer.fsm = .hdrCount) :
    onTimeout s = s.raiseFault .hdrTimeout := by
  rcases h with h | h <;> simp [onTimeout, h]

theorem onTimeout_payload {s : State} (h : s.framer.fsm = .payLo ∨ s.framer.fsm = .payHi) :
    onTimeout s = s.raiseFault (.payTimeout s.framer.k.toNat) := by
  rcases h with h | h <;> simp [onTimeout, h]

theorem onDataByte_idle {d : Byte} {s : State} (h : s.framer.fsm = .idle) : onDataByte d s = .next s := by
  simp [onDataByte, h]

/-- Settles O17: both events find the framer in `IDLE`, where neither does anything. -/
theorem idleIgnoresDataAndTimeouts : Obligations.IdleIgnoresDataAndTimeouts := by
  intro s u e hnext hlink hfsm he
  obtain ⟨env, rfl⟩ := exists_setEnv_of_nextEvent hnext
  rcases he with rfl | ⟨d, hd, rfl⟩
  · rw [step_timeout hnext hlink, onTimeout_idle (s := s.setEnv env) hfsm]
  · rw [step_dataByte hnext hlink hd, onDataByte_idle (s := s.setEnv env) hfsm]

/-- Settles O21: the timeout raises `F_HDR_TIMEOUT`, and raising a packet fault is the whole change. -/
theorem headerTimeoutAbandonsPacket : Obligations.HeaderTimeoutAbandonsPacket := by
  intro s u hnext hlink hfsm
  obtain ⟨env, rfl⟩ := exists_setEnv_of_nextEvent hnext
  rw [step_timeout hnext hlink, onTimeout_header (s := s.setEnv env) hfsm]
  rfl

/-- Settles O22: the timeout raises `F_PAY_TIMEOUT`, and raising a packet fault is the whole change. -/
theorem payloadTimeoutAbandonsPacket : Obligations.PayloadTimeoutAbandonsPacket := by
  intro s u hnext hlink hfsm
  obtain ⟨env, rfl⟩ := exists_setEnv_of_nextEvent hnext
  rw [step_timeout hnext hlink, onTimeout_payload (s := s.setEnv env) hfsm]
  rfl

end Sys2Proof.Machine
end

section
/-! Command bytes, in `IDLE` and inside a packet (40_framer.md R106, R110, R111). -/

namespace Sys2Proof.Machine

/-- No other byte is a command's (30_encoding.md R71, R84). -/
theorem cmdOf_eq_none {b : Byte} (hset : b ≠ Config.cmdSet) (hget : b ≠ Config.cmdGet) : cmdOf b = none := by
  rw [cmdOf, if_neg hset, if_neg hget]

/-- A valid command byte starts its packet, after `F_RESYNC` if one was in progress (R106, R111). -/
theorem onCommandByte_valid {b : Byte} {c : Cmd} (s : State) (h : cmdOf b = some c) :
    onCommandByte b s = { s with
      framer := { s.framer with cmd := c, fsm := .hdrStart }
      out := s.out ++ resyncOutputs s.framer.fsm } := by
  rw [onCommandByte, resync_eq, h]
  rfl

/-- An illegal command byte raises `F_BADCMD`, after `F_RESYNC` if a packet was in progress (R110, R111). -/
theorem onCommandByte_illegal {b : Byte} (s : State) (h : cmdOf b = none) :
    onCommandByte b s = { s with
      framer := { s.framer with fsm := .idle }
      out := s.out ++ resyncOutputs s.framer.fsm ++ [.diag (.badCmd b)] } := by
  rw [onCommandByte, resync_eq, h]
  rfl

theorem step_startsPacket {s u : State} {c : Cmd} (hnext : nextEvent s = (.byte (cmdByte c), u))
    (hlink : s.linkUp = true) :
    step s = .next { u with
      framer := { s.framer with cmd := c, fsm := .hdrStart }
      out := s.out ++ resyncOutputs s.framer.fsm } := by
  obtain ⟨env, rfl⟩ := exists_setEnv_of_nextEvent hnext
  rw [step_commandByte hnext hlink (isCommand_cmdByte c), onCommandByte_valid _ (cmdOf_cmdByte c)]
  rfl

/-- Settles O19: the byte names no command, so `F_BADCMD` follows whatever abandoning a packet puts out. -/
theorem illegalCommandByteFaults : Obligations.IllegalCommandByteFaults := by
  intro s u c hnext hlink hc hset hget
  obtain ⟨env, rfl⟩ := exists_setEnv_of_nextEvent hnext
  rw [step_commandByte hnext hlink hc, onCommandByte_illegal _ (cmdOf_eq_none hset hget)]
  rfl

/-- Settles O18: in `IDLE` there is no packet to abandon, so a valid command byte puts out nothing. -/
theorem commandByteStartsPacket : Obligations.CommandByteStartsPacket := by
  intro s u hlink hfsm
  have hstart (c : Cmd) (hnext : nextEvent s = (.byte (cmdByte c), u)) :
      step s = .next { u with framer := { s.framer with cmd := c, fsm := .hdrStart } } := by
    have hstep := step_startsPacket hnext hlink
    obtain ⟨env, rfl⟩ := exists_setEnv_of_nextEvent hnext
    rw [hstep, hfsm, resyncOutputs, List.append_nil]
    rfl
  exact ⟨hstart .set, hstart .get⟩

/-- Settles O20: inside a packet abandoning it puts out one `F_RESYNC`; the byte is then classified as in `IDLE`. -/
theorem commandByteAbandonsPacket : Obligations.CommandByteAbandonsPacket := by
  intro s u hlink hfsm
  have hresync := resyncOutputs_of_ne hfsm
  refine ⟨fun hnext => ?_, fun hnext => ?_, fun c hc hset hget hnext => ?_⟩
  · rw [← hresync]
    exact step_startsPacket (c := .set) hnext hlink
  · rw [← hresync]
    exact step_startsPacket (c := .get) hnext hlink
  · rw [illegalCommandByteFaults s u c hnext hlink hc hset hget, hresync, List.append_assoc]
    rfl

end Sys2Proof.Machine
end

section
/-! The header bytes (40_framer.md R108, R109, R113 to R115). -/

namespace Sys2Proof.Machine

/-- A data byte and its seven bits are the same number (30_encoding.md R70, R77). -/
theorem fieldOf_toNat {d : Byte} (hd : isCommand d = false) : (fieldOf d).toNat = d.toNat := by
  conv_rhs => rw [← dataByte_fieldOf hd]
  exact (BitVec.toNat_setWidth_of_le (by decide)).symm

/-- The range check of a header, said of the count byte as a number (R113). -/
theorem rangeValid_fieldOf_iff {start : Nat} {d : Byte} (hd : isCommand d = false) :
    rangeValid start (fieldOf d).toNat = true ↔ start ≤ 28 ∧ start + d.toNat ≤ 29 := by
  rw [rangeValid_iff, fieldOf_toNat hd]

theorem onDataByte_hdrStart {d : Byte} {s : State} (h : s.framer.fsm = .hdrStart) :
    onDataByte d s = .next (onStartByte d s) := by
  simp [onDataByte, h]

theorem onDataByte_hdrCount {d : Byte} {s : State} (h : s.framer.fsm = .hdrCount) :
    onDataByte d s = onCountByte d s := by
  simp [onDataByte, h]

theorem step_countByte {s u : State} {d : Byte} (hnext : nextEvent s = (.byte d, u)) (hlink : s.linkUp = true)
    (hd : isCommand d = false) (hfsm : s.framer.fsm = .hdrCount) : step s = onCountByte d u := by
  obtain ⟨env, rfl⟩ := exists_setEnv_of_nextEvent hnext
  rw [step_dataByte hnext hlink hd, onDataByte_hdrCount (s := s.setEnv env) hfsm]

theorem onCountByte_invalid {d : Byte} {s : State}
    (h : rangeValid s.framer.start.toNat (fieldOf d).toNat = false) :
    onCountByte d s = .next (s.raiseFault (.range s.framer.start.toNat (fieldOf d).toNat)) := by
  simp [onCountByte, h]

theorem onCountByte_get {d : Byte} {s : State} (h : rangeValid s.framer.start.toNat (fieldOf d).toNat = true)
    (hcmd : s.framer.cmd = .get) :
    onCountByte d s =
      exec (.get s.framer.start (fieldOf d)) (s.setFramer { s.framer with count := fieldOf d }) := by
  simp [onCountByte, h, hcmd]

theorem onCountByte_emptySet {d : Byte} {s : State}
    (h : rangeValid s.framer.start.toNat (fieldOf d).toNat = true) (hcmd : s.framer.cmd = .set)
    (hzero : fieldOf d = 0) :
    onCountByte d s = exec (.set s.framer.start []) (s.setFramer { s.framer with count := fieldOf d }) := by
  simp only [onCountByte, if_pos h, hcmd, if_pos hzero]

theorem onCountByte_set {d : Byte} {s : State} (h : rangeValid s.framer.start.toNat (fieldOf d).toNat = true)
    (hcmd : s.framer.cmd = .set) (hpos : fieldOf d ≠ 0) :
    onCountByte d s = .next (s.setFramer { s.framer with count := fieldOf d, k := 0, fsm := .payLo }) := by
  simp only [onCountByte, if_pos h, hcmd, if_neg hpos]

/-- A SET with no values only returns the framer to `IDLE` (40_framer.md R115; 41_set.md R130). -/
theorem exec_set_nil {start : Field} (s : State) (h : start.toNat ≤ 28) :
    exec (.set start []) s = .next (s.setFsm .idle) := by
  have hvalid : rangeValid start.toNat ([] : List Val).length = true :=
    rangeValid_iff.2 ⟨h, Nat.le_succ_of_le h⟩
  rw [exec, execSet, if_pos hvalid, dispatchSet, andThen_next]

/-- A GET with no slots sends the echo and returns the framer to `IDLE` (40_framer.md R114; 42_get.md R150, R151). -/
theorem exec_get_zero {start : Field} (s : State) (h : start.toNat ≤ 28) :
    exec (.get start 0) s = .next ((s.txEcho start 0).setFsm .idle) := by
  have hvalid : rangeValid start.toNat (0 : Field).toNat = true :=
    rangeValid_iff.2 ⟨h, Nat.le_succ_of_le h⟩
  rw [exec, execGet, if_pos hvalid]
  rfl

theorem echo_txStream (s : State) (start count : Field) :
    (s.txEcho start count).txStream = s.txStream ++ [Config.cmdGet, dataByte start, dataByte count] := by
  simp [State.txStream, echo_out, echoOutputs, Output.tx?]

/-- Settles O23: the byte is latched with no check. -/
theorem startByteLatched : Obligations.StartByteLatched := by
  intro s u d hnext hlink hd hfsm
  obtain ⟨env, rfl⟩ := exists_setEnv_of_nextEvent hnext
  rw [step_dataByte hnext hlink hd, onDataByte_hdrStart (s := s.setEnv env) hfsm]
  rfl

/-- Settles O24: the range check fails, and raising `F_RANGE` is the whole change. -/
theorem rangeFaultDropsPacket : Obligations.RangeFaultDropsPacket := by
  intro s u d hnext hlink hd hfsm hrange
  obtain ⟨env, rfl⟩ := exists_setEnv_of_nextEvent hnext
  have hinvalid : rangeValid s.framer.start.toNat (fieldOf d).toNat = false := by
    rwa [← Bool.not_eq_true, rangeValid_fieldOf_iff hd]
  rw [step_countByte hnext hlink hd hfsm, onCountByte_invalid (s := s.setEnv env) hinvalid, fieldOf_toNat hd]
  rfl

/-- Settles O25: the range check passes and the count is not 0, so the payload is awaited. -/
theorem countByteAwaitsPayload : Obligations.CountByteAwaitsPayload := by
  intro s u d hnext hlink hd hfsm hcmd hpos hstart hend
  obtain ⟨env, rfl⟩ := exists_setEnv_of_nextEvent hnext
  have hvalid : rangeValid s.framer.start.toNat (fieldOf d).toNat = true :=
    (rangeValid_fieldOf_iff hd).2 ⟨hstart, hend⟩
  have hne : fieldOf d ≠ 0 := by
    intro hzero
    have htoNat := fieldOf_toNat hd
    rw [hzero] at htoNat
    exact absurd htoNat.symm (Nat.ne_of_gt hpos)
  rw [step_countByte hnext hlink hd hfsm, onCountByte_set (s := s.setEnv env) hvalid hcmd hne]
  rfl

/-- Settles O26: the SET dispatched has no values, and only returns the framer to `IDLE`. -/
theorem emptySetChangesNothing : Obligations.EmptySetChangesNothing := by
  intro s u hnext hlink hfsm hcmd hstart
  obtain ⟨env, rfl⟩ := exists_setEnv_of_nextEvent hnext
  have hvalid : rangeValid s.framer.start.toNat (fieldOf 0x00).toNat = true :=
    (rangeValid_fieldOf_iff rfl).2 ⟨hstart, Nat.le_succ_of_le hstart⟩
  rw [step_countByte hnext hlink rfl hfsm, onCountByte_emptySet (s := s.setEnv env) hvalid hcmd rfl]
  exact exec_set_nil _ hstart

/-- Settles O27: the range check passes and the GET runs in the same step; every command ends in `IDLE`, and one with
no slots sends the echo alone. -/
theorem getHeaderDispatches : Obligations.GetHeaderDispatches := by
  intro s u d hnext hlink hd hfsm hcmd hstart hend
  obtain ⟨env, rfl⟩ := exists_setEnv_of_nextEvent hnext
  have hvalid : rangeValid s.framer.start.toNat (fieldOf d).toNat = true :=
    (rangeValid_fieldOf_iff hd).2 ⟨hstart, hend⟩
  have hstep : step s = exec (.get s.framer.start (fieldOf d))
      ((s.setEnv env).setFramer { s.framer with count := fieldOf d }) := by
    rw [step_countByte hnext hlink hd hfsm]
    exact onCountByte_get hvalid hcmd
  refine ⟨hstep, fun t ht => ?idle, fun hzero => ?echo⟩
  case idle => rw [exec_framer (hstep.symm.trans ht)]
  case echo =>
    subst hzero
    exact ⟨_, hstep.trans (exec_get_zero _ hstart), echo_txStream _ _ _⟩

end Sys2Proof.Machine
end

section
/-! The payload bytes (40_framer.md R116, R117). -/

namespace Sys2Proof.Machine

theorem onDataByte_payLo {d : Byte} {s : State} (h : s.framer.fsm = .payLo) :
    onDataByte d s = .next (onLowByte d s) := by
  simp [onDataByte, h]

theorem onDataByte_payHi {d : Byte} {s : State} (h : s.framer.fsm = .payHi) :
    onDataByte d s = onHighByte d s := by
  simp [onDataByte, h]

/-- A buffer with the decoded value at `k` and the old values elsewhere is the one the model stores (R117). -/
theorem storePayload_eq {f : Framer} {d : Byte} {buf : Vector Val 29}
    (h : ∀ (j : Nat) (hj : j < 29), buf[j] = if j = f.k.toNat then dec f.lo (fieldOf d) else f.buf[j]) :
    storePayload d f = { f with buf := buf } := by
  have hbuf : f.buf.setIfInBounds f.k.toNat (dec f.lo (fieldOf d)) = buf := by
    refine Vector.ext fun j hj => ?_
    rw [h j hj, Vector.getElem_setIfInBounds]
    exact if_congr eq_comm rfl rfl
  rw [storePayload, hbuf]

/-- A SET always answers a next state, in `IDLE` (40_framer.md R119; 41_set.md R130). -/
theorem exec_set_idle (start : Field) (values : List Val) (s : State) :
    ∃ t, exec (.set start values) s = .next t ∧ t.framer.fsm = .idle := by
  obtain ⟨t, ht⟩ : ∃ t, exec (.set start values) s = .next t := by
    rcases execSet_cases start values s with ⟨-, t, ht, -⟩ | ⟨-, ht⟩
    · exact ⟨_, ht⟩
    · exact ⟨_, ht⟩
  exact ⟨t, ht, by rw [exec_framer ht]⟩

/-- Settles O28: the byte is latched. -/
theorem lowByteLatched : Obligations.LowByteLatched := by
  intro s u d hnext hlink hd hfsm
  obtain ⟨env, rfl⟩ := exists_setEnv_of_nextEvent hnext
  rw [step_dataByte hnext hlink hd, onDataByte_payLo (s := s.setEnv env) hfsm]
  rfl

/-- Settles O29: the value is stored in both cases. The framer's invariant keeps `k + 1` inside the five bits of `k`
when a value is still due, and a SET never stops when none is. -/
theorem highByteStoresOrDispatches : Obligations.HighByteStoresOrDispatches := by
  intro s u d buf hnext hlink hd hsound hfsm hbuf
  obtain ⟨env, rfl⟩ := exists_setEnv_of_nextEvent hnext
  have hstore : storePayload d s.framer = { s.framer with buf := buf } := storePayload_eq hbuf
  have hstep : step s = onHighByte d (s.setEnv env) := by
    rw [step_dataByte hnext hlink hd, onDataByte_payHi (s := s.setEnv env) hfsm]
  refine ⟨fun hmore => ?more, fun hlast => ?last⟩
  case more =>
    obtain ⟨-, -, -, hrange, -⟩ := hsound (.inr hfsm)
    refine ⟨s.framer.k + 1, BitVec.toNat_add_of_lt (by simp; omega), ?_⟩
    rw [hstep, onHighByte_more (s := s.setEnv env) hmore.ne, State.setEnv_framer, hstore]
    rfl
  case last =>
    have hexec : step s = exec (.set s.framer.start (buf.toList.take s.framer.count.toNat))
        ((s.setEnv env).setFramer { s.framer with buf := buf }) := by
      rw [hstep, onHighByte_last (s := s.setEnv env) hlast, State.setEnv_framer, hstore]
      rfl
    refine ⟨hexec, ?_⟩
    rw [hexec]
    exact exec_set_idle _ _ _

end Sys2Proof.Machine
end

section
/-! What sends bytes (40_framer.md R123), from a command up to a step. -/

namespace Sys2Proof.Machine

theorem txStream_of_out_append {s t : State} {news : List Output} (h : t.out = s.out ++ news)
    (hnews : news.filterMap Output.tx? = []) : t.txStream = s.txStream := by
  rw [State.txStream, h, List.filterMap_append, hnews, List.append_nil, State.txStream]

/-- A SET slot writes a register or raises a notice; it sends nothing (41_set.md R132 to R136). -/
theorem setSlotOutput_sends_nothing (idx : Nat) (v : Val) : (setSlotOutput idx v).filterMap Output.tx? = [] := by
  unfold setSlotOutput
  split <;> rfl

theorem setOutputs_sends_nothing (values : List Val) :
    ∀ start, (setOutputs start values).filterMap Output.tx? = [] := by
  induction values with
  | nil => intro start; rfl
  | cons v vs ih =>
    intro start
    rw [setOutputs_cons, List.filterMap_append, setSlotOutput_sends_nothing, ih, List.append_nil]

theorem execSet_txStream {start : Field} {values : List Val} {s t : State} (h : execSet start values s = .next t) :
    t.txStream = s.txStream := by
  rcases execSet_cases start values s with ⟨-, u, hu, heffect, -⟩ | ⟨-, hu⟩ <;> rw [hu] at h <;> cases h
  · exact txStream_of_out_append heffect.out (setOutputs_sends_nothing values _)
  · exact txStream_of_out_append rfl rfl

/-- Only the dispatch of a GET sends bytes. -/
theorem EventCase.get_of_txStream_ne {e : InputEvent} {u t : State} (h : EventCase e u t)
    (hne : t.txStream ≠ u.txStream) :
    u.linkUp = true ∧ u.framer.fsm = .hdrCount ∧ u.framer.cmd = .get ∧
      ∃ d, e = .byte d ∧ isCommand d = false ∧ rangeValid u.framer.start.toNat (fieldOf d).toNat = true := by
  cases h with
  | reset _ ht => exact absurd (by rw [ht]; rfl) hne
  | link _ ht => exact absurd (by rw [ht]; rfl) hne
  | quiet ht => exact absurd (by rw [ht]) hne
  | move f _ _ ht => exact absurd (by rw [ht]; rfl) hne
  | faults f ds _ _ _ _ ht =>
    refine absurd (txStream_of_out_append (news := ds.map .diag) (by rw [ht]) ?_) hne
    simp [List.filterMap_map, Function.comp_def, Output.tx?]
  | get d f he hd hlink hfsm hcmd hvalid => exact ⟨hlink, hfsm, hcmd, d, he, hd, hvalid⟩
  | emptySet d f _ _ _ hexec => exact absurd (execSet_txStream hexec) hne
  | set d f _ _ _ _ _ hexec => exact absurd (execSet_txStream hexec) hne

/-- Settles O34: of the cases of a step only the dispatch of a GET sends, and it has passed the range check. -/
theorem onlyGetDispatchSends : Obligations.OnlyGetDispatchSends := by
  intro s t hstep hne
  obtain ⟨env, henv, -, -⟩ := nextEvent_eq s
  have hcase := step_cases hstep
  rw [henv] at hcase
  obtain ⟨hlink, hfsm, hcmd, d, hbyte, hd, hvalid⟩ := hcase.get_of_txStream_ne hne
  obtain ⟨hstart, hend⟩ := (rangeValid_fieldOf_iff hd).1 hvalid
  exact ⟨hlink, hfsm, hcmd, d, _, Prod.ext hbyte rfl, hd, hstart, hend⟩

end Sys2Proof.Machine
end

section
/-! SET's slots on actuators, sensors and auxiliary outputs (41_set.md R133, R134, R136). -/

namespace Sys2Proof.Machine

theorem truth_eq_decide (v : Val) : truth v = decide (v ≠ 0) := decide_not.symm

theorem Kind.isSensor_cases {k : Kind} (h : k.isSensor = true) : k = .touch ∨ k = .current ∨ k = .voltage := by
  cases k with
  | touch => exact .inl rfl
  | current => exact .inr (.inl rfl)
  | voltage => exact .inr (.inr rfl)
  | actuator | relay | auxiliary | invalid => cases h

theorem memWrite_actuator (ch : Fin 18) (v : Val) (s : State) : memWrite ch.val v s = .next (s.writePulse ch v) := by
  rw [memWrite, kind_actuator]

theorem memWrite_sensor {idx : Nat} (h : (kind idx).isSensor = true) (v : Val) (s : State) :
    memWrite idx v s = .next (s.notice (.setRo idx)) := by
  rcases Kind.isSensor_cases h with hk | hk | hk <;> rw [memWrite, hk]

theorem memWrite_aux1 (v : Val) (s : State) : memWrite 27 v s = .next (s.writeAux1 (decide (v ≠ 0))) := by
  rw [← truth_eq_decide]
  rfl

theorem memWrite_aux2 (v : Val) (s : State) : memWrite 28 v s = .next (s.writeAux2 (decide (v ≠ 0))) := by
  rw [← truth_eq_decide]
  rfl

/-- A SET of one value is its slot's write, with the framer back in `IDLE` (40_framer.md R117; 41_set.md R130). -/
theorem exec_set_singleton {start : Field} {v : Val} {s t : State} (h : start.toNat ≤ 28)
    (hwrite : memWrite start.toNat v s = .next t) : exec (.set start [v]) s = .next (t.setFsm .idle) := by
  have hvalid : rangeValid start.toNat [v].length = true := rangeValid_iff.2 ⟨h, Nat.succ_le_succ h⟩
  rw [exec, execSet, if_pos hvalid, dispatchSet, hwrite, andThen_next, dispatchSet, andThen_next]

/-- The output mapped to a channel has the channel's pulse as its width (43_gate.md R183). -/
theorem State.pwmWidth_pwmIndex (s : State) (ch : Fin 18) : s.pwmWidth (Config.pwmIndex ch) = s.pulse[ch.val] := by
  simp only [State.pwmWidth, Equiv.symm_apply_apply]

theorem State.pwmOut_pwmIndex (s : State) (ch : Fin 18) :
    s.pwmOut (Config.pwmIndex ch) = if s.enable = true then .pulse s.pulse[ch.val] else .deasserted := by
  rw [State.pwmOut, State.pwmWidth_pwmIndex]

/-- A pulse write moves the width of its own channel's output alone. -/
theorem State.writePulse_pwmWidth_of_ne (s : State) {ch : Fin 18} (v : Val) {p : Fin 18}
    (h : p ≠ Config.pwmIndex ch) : (s.writePulse ch v).pwmWidth p = s.pwmWidth p := by
  have hne : ch.val ≠ (Config.pwmIndex.symm p).val := fun heq =>
    h (Config.pwmIndex.symm_apply_eq.1 (Fin.ext heq.symm))
  exact Vector.getElem_set_ne ch.isLt _ hne

/-- The pin of channel 27 shows `aux1`: it is not the relay's pin, as `GPIO_PIN` is injective (20_memory.md R45). -/
theorem State.gpio_aux1 (s : State) : s.gpio (Config.gpioPin 27) = some s.aux1 := by
  simp [State.gpio]

/-- The pin of channel 28 shows `aux2`, being neither of the other two (20_memory.md R45). -/
theorem State.gpio_aux2 (s : State) : s.gpio (Config.gpioPin 28) = some s.aux2 := by
  simp [State.gpio]

/-- Settles O39: the one slot stores its value, and the ports are functions of the registers. -/
theorem setActuatorStores : Obligations.SetActuatorStores := by
  intro start ch v s hstart
  have hwrite : memWrite start.toNat v s = .next (s.writePulse ch v) := by rw [hstart, memWrite_actuator]
  have hstored : (s.writePulse ch v).pulse[ch.val] = v := Vector.getElem_set_self _
  refine ⟨_, exec_set_singleton (by omega) hwrite, rfl, hstored, ?width, ?output, fun p hp => ?others⟩
  case width => exact (State.pwmWidth_pwmIndex _ ch).trans hstored
  case output =>
    rw [State.pwmOut_pwmIndex]
    simp
  case others => exact s.writePulse_pwmWidth_of_ne v hp

/-- Settles O40: each of the eight channels is of a sensor kind, whose slot is the notice alone. -/
theorem setSensorIsSkipped : Obligations.SetSensorIsSkipped := by
  intro idx v rest s hlow hhigh
  rw [dispatchSet, memWrite_sensor ((kind_isSensor idx).2 ⟨hlow, hhigh⟩), andThen_next]
  rfl

/-- Settles O42: the one slot writes its latch, and the mapped pin shows the latch. -/
theorem setAuxiliaryDrivesItsPin : Obligations.SetAuxiliaryDrivesItsPin := fun v s =>
  ⟨⟨_, exec_set_singleton (by decide) (memWrite_aux1 v s), rfl, State.gpio_aux1 _⟩,
    ⟨_, exec_set_singleton (by decide) (memWrite_aux2 v s), rfl, State.gpio_aux2 _⟩⟩

end Sys2Proof.Machine
end

section
/-! GET of one slot on an actuator, a digital and a sensor channel (42_get.md R153 to R159, R166). -/

namespace Sys2Proof.Machine

/-- The echo is three bytes on the outputs and nothing else (R151). -/
theorem State.txEcho_eq (s : State) (start count : Field) :
    s.txEcho start count = { s with out := s.out ++ echoOutputs start count } := by
  rw [← echo_out]
  rfl

/-- A value is two bytes on the outputs and nothing else (R167). -/
theorem State.txValue_eq (s : State) (v : Val) : s.txValue v = { s with out := s.out ++ valueOutputs v } := by
  have hout : (s.txValue v).out = s.out ++ valueOutputs v := List.append_assoc ..
  rw [← hout]
  rfl

/-- A GET of one slot is the echo, the slot's read and its two bytes, with the framer back in `IDLE` (40_framer.md
R114; R150). -/
theorem exec_get_singleton {start : Field} {v : Val} {s t : State} (h : start.toNat ≤ 28)
    (hread : memRead start.toNat (s.txEcho start 1) = .next (v, t)) :
    exec (.get start 1) s = .next { t with
      out := t.out ++ valueOutputs v
      framer := { t.framer with fsm := .idle } } := by
  have hvalid : rangeValid start.toNat (1 : Field).toNat = true := rangeValid_iff.2 ⟨h, Nat.succ_le_succ h⟩
  have hslots : dispatchGet start 1 s = .next (t.txValue v) := by
    change readSlots 1 start.toNat (s.txEcho start 1) = _
    simp only [readSlots, hread, andThen_next]
  rw [exec, execGet, if_pos hvalid, hslots, andThen_next, State.txValue_eq]
  rfl

theorem memRead_actuator (ch : Fin 18) (s : State) : memRead ch.val s = .next (s.pulse[ch.val], s.readPulse ch) := by
  rw [memRead, kind_actuator]

theorem valueOutputs_levelValue (b : Bool) :
    valueOutputs (levelValue b) = [.tx (if b = true then 0x01 else 0x00), .tx 0x00] := by
  cases b <;> rfl

/-- A slot that only answers a level sends the echo and then `01 00` or `00 00` (R159). -/
theorem exec_get_level {start : Field} {b : Bool} {s : State} (h : start.toNat ≤ 28)
    (hread : memRead start.toNat (s.txEcho start 1) = .next (levelValue b, s.txEcho start 1)) :
    exec (.get start 1) s = .next { s with
      out := s.out ++ [.tx 0xC7, .tx (dataByte start), .tx 0x01, .tx (if b = true then 0x01 else 0x00), .tx 0x00]
      framer := { s.framer with fsm := .idle } } := by
  rw [exec_get_singleton h hread, State.txEcho_eq, valueOutputs_levelValue, List.append_assoc]
  rfl

theorem kind_touch {idx : Nat} (hlow : 18 ≤ idx) (hhigh : idx ≤ 23) : kind idx = .touch := by
  rw [kind, dif_neg (by omega), if_pos (by omega)]

/-- A sensor slot is its channel's select and then one read of its kind (R155 to R158). -/
theorem memRead_sensor {idx : Nat} (hlow : 18 ≤ idx) (hhigh : idx ≤ 25) (s : State) :
    memRead idx s = sense (sensorRead idx) idx (s.selectMux (Config.muxAddr idx)) := by
  obtain htouch | rfl | rfl : idx ≤ 23 ∨ idx = 24 ∨ idx = 25 := by omega
  · rw [memRead, kind_touch hlow htouch, sensorRead, if_neg (by omega)]
  · rfl
  · rfl

/-- The whole effect of a GET of one sensor channel whose read is answered, the answer a failure or not (R155 to R157,
R166). -/
theorem exec_get_sensor {start : Field} {a : AdcAnswer} {s : State} (hlow : 18 ≤ start.toNat)
    (hhigh : start.toNat ≤ 25) (hanswer : answerAt s 0 = some a) :
    exec (.get start 1) s = .next { s with
      muxSel := some (Config.muxAddr start.toNat)
      env := s.env.afterReads 1
      out := s.out ++ (echoOutputs start 1 ++ sensorOutputs start.toNat a) ++
        valueOutputs (answerValue (sensorRead start.toNat) a)
      framer := { s.framer with fsm := .idle } } := by
  obtain ⟨t, hsense, rfl⟩ := sense_answered (k := sensorRead start.toNat) (idx := start.toNat)
    (s := (s.txEcho start 1).selectMux (Config.muxAddr start.toNat)) hanswer
  have hread := (memRead_sensor hlow hhigh (s.txEcho start 1)).trans hsense
  rw [exec_get_singleton (by omega) hread]
  cases a <;> simp [State.txEcho_eq, sensorOutputs]

/-- The read of a sensor channel, by its header field: current for 24, voltage for the others (R155 to R157). -/
theorem sensorRead_toNat (start : Field) :
    sensorRead start.toNat = if start = 24 then .current else .voltage :=
  if_congr (BitVec.toNat_inj (y := 24)) rfl rfl

/-- A failed read's value is sent as `7F 7F` (R166). -/
theorem valueOutputs_faultSlot : valueOutputs faultSlot = [.tx 0x7F, .tx 0x7F] := by decide

/-- Settles O45: the slot is one read of the cell, which `enable` has no part in. -/
theorem getActuatorReturnsStored : Obligations.GetActuatorReturnsStored := by
  intro start ch b s hstart
  have hread : memRead start.toNat (({ s with enable := b } : State).txEcho start 1) =
      .next (s.pulse[ch.val], ({ s with enable := b } : State).txEcho start 1 |>.readPulse ch) := by
    rw [hstart, memRead_actuator]
    rfl
  refine ⟨_, exec_get_singleton (by omega) hread, ?state, ?calls⟩
  case state =>
    simp only [State.txEcho_eq, State.readPulse, State.emit, List.append_assoc]
    rfl
  case calls =>
    simp [State.calls, State.txEcho_eq, State.readPulse, echoOutputs, valueOutputs, Output.calls]

/-- Settles O46: each of the three slots only answers its latch's level. -/
theorem getDigitalReturnsLatch : Obligations.GetDigitalReturnsLatch := fun _ =>
  ⟨exec_get_level (by decide) rfl, exec_get_level (by decide) rfl, exec_get_level (by decide) rfl⟩

/-- Settles O47: the whole effect of the one sensor slot, with the answer's value and notice written out. -/
theorem getSensorSelectsThenReads : Obligations.GetSensorSelectsThenReads := by
  intro start s hlow hhigh
  refine ⟨fun x hok => ?ok, fun hfail => ?fail⟩
  case ok =>
    rw [exec_get_sensor hlow hhigh hok, sensorOutputs, sensorRead_toNat, answerValue, apply_ite (quantise · x)]
    rfl
  case fail =>
    rw [exec_get_sensor hlow hhigh hfail, sensorOutputs, sensorRead_toNat, answerValue, valueOutputs_faultSlot,
      List.append_assoc s.out]
    rfl

end Sys2Proof.Machine
end

section
/-! The output ports as functions of the registers (43_gate.md R182 to R186). -/

namespace Sys2Proof.Machine

/-- The relay pin shows `enable` (R185; 10_state.md R22). -/
theorem State.gpio_relay (s : State) : s.gpio (Config.gpioPin 26) = some s.enable := by
  rw [State.gpio, if_pos rfl, State.relayPin]

/-- Settles O53: each output is read through the channel map, a bijection, so no output is left without a channel. -/
theorem pwmPortFollowsRegisters : Obligations.PwmPortFollowsRegisters := fun s =>
  ⟨rfl, s.pwmWidth_pwmIndex, s.pwmOut_pwmIndex, Config.pwmIndex.surjective⟩

/-- Settles O54: the three pins are distinct, and each shows its own latch. -/
theorem pinsFollowLatches : Obligations.PinsFollowLatches := fun s =>
  ⟨s.gpio_relay, s.gpio_aux1, s.gpio_aux2⟩

end Sys2Proof.Machine
end

section
/-! The decoder and the encoder are inverse (30_encoding.md R73, R74, R79, R82, R84 to R87). -/

namespace Sys2Proof

theorem dataByte_injective : Function.Injective dataByte :=
  Function.LeftInverse.injective fieldOf_dataByte

theorem exists_dataByte {b : Byte} (h : isCommand b = false) : ∃ f, b = dataByte f :=
  ⟨fieldOf b, (dataByte_fieldOf h).symm⟩

/-- The two data bytes of a decoded value are the ones it was decoded from (R81, R82). -/
theorem valueBytes_dec (lo hi : Field) : valueBytes (dec lo hi) = [dataByte lo, dataByte hi] := by
  rw [valueBytes, enc_dec]

/-! ## Decoding what is an encoding -/

theorem decodeValues_encoded (values : List Val) (bytes : List Byte) :
    decodeValues values.length (values.flatMap valueBytes ++ bytes) = .ok (values, bytes) := by
  simpa [decodeValues] using decodeValues_append values bytes 0

theorem decode_cmdByte (c : Cmd) (bytes : List Byte) : decode (cmdByte c :: bytes) = decodeHeader c bytes := by
  simp [decode]

theorem decodeHeader_dataBytes (c : Cmd) (start count : Field) (bytes : List Byte) :
    decodeHeader c (dataByte start :: dataByte count :: bytes) = decodeBody c start count bytes := by
  simp [decodeHeader]

theorem Instr.wf_set (start : Field) (values : List Val) :
    (Instr.set start values).wf = rangeValid start.toNat values.length := rfl

theorem Instr.wf_get (start count : Field) :
    (Instr.get start count).wf = rangeValid start.toNat count.toNat := rfl

/-- The count byte of a well-formed SET is the number of its values (R77). -/
theorem toNat_count_of_wf {start : Field} {values : List Val} (h : (Instr.set start values).wf = true) :
    (BitVec.ofNat 7 values.length).toNat = values.length := by
  rw [Instr.wf_set, rangeValid_iff] at h
  rw [BitVec.toNat_ofNat, Nat.mod_eq_of_lt (by omega)]

/-- Settles O3: the command byte, the two header bytes and the payload are each read back in turn. -/
theorem decodeOfEncodeIsInstruction : Obligations.DecodeOfEncodeIsInstruction := by
  intro i rest hwf
  cases i with
  | set start values =>
    have hcount := toNat_count_of_wf hwf
    calc decode (encode (.set start values) ++ rest)
      _ = decodeBody .set start (BitVec.ofNat 7 values.length) (values.flatMap valueBytes ++ rest) :=
        (decode_cmdByte .set _).trans (decodeHeader_dataBytes .set _ _ _)
      _ = .ok (.set start values, rest) := by
        rw [decodeBody, hcount, ← Instr.wf_set, if_pos hwf, decodeValues_encoded]
  | get start count =>
    calc decode (encode (.get start count) ++ rest)
      _ = decodeBody .get start count rest := (decode_cmdByte .get _).trans (decodeHeader_dataBytes .get _ _ _)
      _ = .ok (.get start count, rest) := by rw [decodeBody, ← Instr.wf_get, if_pos hwf]

/-! ## What decodes is an encoding -/

theorem decodeValues_eq_ok {n : Nat} {bytes rest : List Byte} {values : List Val}
    (h : decodeValues n bytes = .ok (values, rest)) :
    values.length = n ∧ bytes = values.flatMap valueBytes ++ rest := by
  induction n, bytes using decodeValues.induct generalizing values with
  | case1 bytes => cases h; exact ⟨rfl, rfl⟩
  | case7 n b1 b2 bytes h1 h2 vs rest' htail ih =>
    obtain ⟨lo, rfl⟩ := exists_dataByte (by simpa using h1)
    obtain ⟨hi, rfl⟩ := exists_dataByte (by simpa using h2)
    obtain ⟨rfl, rfl⟩ : dec lo hi :: vs = values ∧ rest' = rest := by simpa [decodeValues, htail] using h
    obtain ⟨hlength, hbytes⟩ := ih htail
    refine ⟨by rw [List.length_cons, hlength], ?_⟩
    rw [List.flatMap_cons, valueBytes_dec, hbytes]
    rfl
  | case2 | case3 | case4 | case5 | case6 | case8 => simp_all [decodeValues]

theorem decode_eq_ok {bytes : List Byte} {r : Instr × List Byte} (h : decode bytes = .ok r) :
    ∃ c tail, bytes = cmdByte c :: tail ∧ decodeHeader c tail = .ok r := by
  unfold decode at h
  split at h
  · cases h
  · split at h
    · split at h
      · next hc => exact ⟨_, _, by rw [cmdOf_eq_some hc], h⟩
      · cases h
    · cases h

theorem decodeHeader_eq_ok {c : Cmd} {bytes : List Byte} {r : Instr × List Byte}
    (h : decodeHeader c bytes = .ok r) :
    ∃ start count tail, bytes = dataByte start :: dataByte count :: tail ∧
      decodeBody c start count tail = .ok r := by
  unfold decodeHeader at h
  split at h
  · cases h
  · split at h <;> cases h
  · next s n tail =>
    split at h
    · cases h
    · next hs =>
      split at h
      · cases h
      · next hn =>
        exact ⟨fieldOf s, fieldOf n, tail,
          by rw [dataByte_fieldOf (by simpa using hs), dataByte_fieldOf (by simpa using hn)], h⟩

/-- A body that decodes has passed the range check, and its payload is the values' bytes (R77, R78). -/
theorem decodeBody_eq_ok {c : Cmd} {start count : Field} {bytes rest : List Byte} {i : Instr}
    (h : decodeBody c start count bytes = .ok (i, rest)) :
    i.wf = true ∧ cmdByte c :: dataByte start :: dataByte count :: bytes = encode i ++ rest := by
  unfold decodeBody at h
  split at h
  · next hrange =>
    cases c with
    | get =>
      cases h
      exact ⟨hrange, rfl⟩
    | set =>
      dsimp only at h
      split at h
      · next values rest' hvalues =>
        cases h
        obtain ⟨hlength, rfl⟩ := decodeValues_eq_ok hvalues
        rw [← hlength] at hrange
        refine ⟨hrange, ?_⟩
        have hcount : count = BitVec.ofNat 7 values.length := by
          rw [hlength, BitVec.ofNat_toNat, BitVec.setWidth_eq]
        rw [hcount]
        rfl
      · cases h
  · cases h

/-- Settles O4: a packet that decodes is a valid command byte, two data bytes and a body that decodes. -/
theorem decodeAcceptsOnlyEncodings : Obligations.DecodeAcceptsOnlyEncodings := by
  intro bytes rest i h
  obtain ⟨c, tail, rfl, hheader⟩ := decode_eq_ok h
  obtain ⟨start, count, body, rfl, hbody⟩ := decodeHeader_eq_ok hheader
  exact decodeBody_eq_ok hbody

/-! ## The codec, spec packets and illegal bytes -/

/-- Settles O1: the five byte strings, each decoded by evaluation. -/
theorem specPacketsDecode : Obligations.SpecPacketsDecode := by
  unfold Obligations.SpecPacketsDecode
  decide

/-- Settles O2: the model's two laws of the codec. -/
theorem codecRoundTrips : Obligations.CodecRoundTrips := ⟨dec_enc, enc_dec⟩

theorem decodeHeader_commandByte {b : Byte} (h : isCommand b = true) (c : Cmd) (rest : List Byte) :
    decodeHeader c (b :: rest) = .error (.commandByteInside b) := by
  cases rest <;> simp [decodeHeader, h]

/-- Settles O5: the first byte is classified first, and a header takes only data bytes. -/
theorem illegalBytesRejected : Obligations.IllegalBytesRejected := by
  intro b c rest
  refine ⟨fun hdata => ?data, fun hcommand hset hget => ?illegal, fun hcommand => ?inside⟩
  case data => simp [decode, hdata]
  case illegal => simp [decode, hcommand, Machine.cmdOf_eq_none hset hget]
  case inside =>
    exact ⟨(decode_cmdByte .set _).trans (decodeHeader_commandByte hcommand _ _),
      (decode_cmdByte .get _).trans (decodeHeader_commandByte hcommand _ _)⟩

end Sys2Proof
end

section
/-! The channel map (20_memory.md R43 to R47). -/

namespace Sys2Proof.Machine

/-- The rows of the channel map, each with the indices it is for (R46, R47). -/
theorem channelMap_cases (idx : Nat) :
    (∃ ch : Fin 18, idx = ch.val ∧ channelMap idx = some (.actuator (Config.pwmIndex ch))) ∨
    ((18 ≤ idx ∧ idx ≤ 25) ∧ channelMap idx = some (.muxSensor (Config.muxAddr idx))) ∨
    ((26 ≤ idx ∧ idx ≤ 28) ∧ channelMap idx = some (.gpio (Config.gpioPin idx))) ∨
    (29 ≤ idx ∧ channelMap idx = none) := by
  rcases Nat.lt_or_ge 28 idx with hout | hin
  · exact .inr (.inr (.inr ⟨hout, by rw [channelMap, kind_eq_invalid_iff.2 hout]⟩))
  · rcases kind_cases hin with
      ⟨ch, rfl, hk⟩ | ⟨hlow, hhigh, hk⟩ | ⟨rfl, hk⟩ | ⟨rfl, hk⟩ | ⟨rfl, hk⟩ | ⟨rfl, hk⟩ | ⟨rfl, hk⟩
    · exact .inl ⟨ch, rfl, by rw [channelMap, hk]⟩
    · exact .inr (.inl ⟨⟨hlow, by omega⟩, by rw [channelMap, hk]⟩)
    all_goals simp [channelMap, hk]

theorem channelMap_eq_none_iff (idx : Nat) : channelMap idx = none ↔ 29 ≤ idx := by
  rcases channelMap_cases idx with ⟨ch, rfl, hmap⟩ | ⟨hidx, hmap⟩ | ⟨hidx, hmap⟩ | ⟨hidx, hmap⟩ <;>
    simp only [hmap, reduceCtorEq, true_iff, false_iff] <;> omega

theorem channelMap_actuator_iff (idx : Nat) : (∃ p, channelMap idx = some (.actuator p)) ↔ idx ≤ 17 := by
  rcases channelMap_cases idx with ⟨ch, rfl, hmap⟩ | ⟨hidx, hmap⟩ | ⟨hidx, hmap⟩ | ⟨hidx, hmap⟩ <;>
    simp [hmap] <;> omega

theorem channelMap_muxSensor_iff (idx : Nat) :
    (∃ a, channelMap idx = some (.muxSensor a)) ↔ 18 ≤ idx ∧ idx ≤ 25 := by
  rcases channelMap_cases idx with ⟨ch, rfl, hmap⟩ | ⟨hidx, hmap⟩ | ⟨hidx, hmap⟩ | ⟨hidx, hmap⟩ <;>
    simp [hmap] <;> omega

theorem channelMap_gpio_iff (idx : Nat) : (∃ a, channelMap idx = some (.gpio a)) ↔ 26 ≤ idx ∧ idx ≤ 28 := by
  rcases channelMap_cases idx with ⟨ch, rfl, hmap⟩ | ⟨hidx, hmap⟩ | ⟨hidx, hmap⟩ | ⟨hidx, hmap⟩ <;>
    simp [hmap] <;> omega

/-- Two channels with one entry are of one row, and within a row the open permutation tells them apart. -/
theorem channelMap_injective {i j : Nat} (hi : i ≤ 28) (h : channelMap i = channelMap j) : i = j := by
  rcases channelMap_cases i with ⟨c, rfl, hc⟩ | ⟨-, hc⟩ | ⟨-, hc⟩ | ⟨hout, -⟩
  case inr.inr.inr => omega
  all_goals
    rcases channelMap_cases j with ⟨d, rfl, hd⟩ | ⟨-, hd⟩ | ⟨-, hd⟩ | ⟨-, hd⟩ <;>
      simp only [hc, hd, Option.some.injEq, Resource.actuator.injEq, Resource.muxSensor.injEq, Resource.gpio.injEq,
        reduceCtorEq, EmbeddingLike.apply_eq_iff_eq] at h
    simp only [h]

/-- Settles O8: the map's rows say which entries there are, and no row or permutation repeats one. -/
theorem channelMapInjective : Obligations.ChannelMapInjective :=
  ⟨channelMap_eq_none_iff, channelMap_actuator_iff, channelMap_muxSensor_iff, channelMap_gpio_iff,
    fun _ _ hi h => channelMap_injective hi h⟩

end Sys2Proof.Machine
end

section
/-! SET as a whole command (41_set.md R130 to R139; 20_memory.md R51). -/

namespace Sys2Proof.Machine

/-- Moving the framer's position is no part of a SET's effect. -/
theorem SetEffect.setFsm {start : Nat} {values : List Val} {s t : State} (h : SetEffect start values s t) (q : Fsm) :
    SetEffect start values s (t.setFsm q) :=
  ⟨h.pulse, h.enable, h.aux1, h.aux2, h.muxSel, h.linkUp, h.env, h.out⟩

theorem written_eq_none {start idx : Nat} {values : List Val}
    (h : ¬ (start ≤ idx ∧ idx < start + values.length)) : written start values idx = none := by
  rwa [← Option.not_isSome_iff_eq_none, written_isSome]

/-- Settles O38: the walk over a valid range completes with the tables' effect, and the framer is then put back. -/
theorem setCompletesWithItsEffect : Obligations.SetCompletesWithItsEffect := by
  intro start values s hwf
  rcases execSet_cases start values s with ⟨-, t, hexec, heffect, hframer⟩ | ⟨hrange, -⟩
  · exact ⟨_, hexec, heffect.setFsm .idle, by rw [State.setFsm_framer, hframer]⟩
  · rw [← Instr.wf_set, hwf] at hrange
    cases hrange

/-- Settles O51: `exec` makes the framer's range check first, and the fault is all it then does. -/
theorem outOfRangeCommandIsDropped : Obligations.OutOfRangeCommandIsDropped := by
  intro i s hwf
  cases i with
  | set start values =>
    rw [Instr.wf_set] at hwf
    rw [exec, execSet, if_neg (by simp [hwf])]
    rfl
  | get start count =>
    rw [Instr.wf_get] at hwf
    rw [exec, execGet, if_neg (by simp [hwf])]
    rfl

/-- What a SET that answers a next state has done: its effect, or only `F_RANGE`. -/
theorem exec_set_next {start : Field} {values : List Val} {s t : State} (h : exec (.set start values) s = .next t) :
    SetEffect start.toNat values s t ∨ t = s.raiseFault (.range start.toNat values.length) := by
  rcases execSet_cases start values s with ⟨-, u, hu, heffect, -⟩ | ⟨-, hu⟩ <;> rw [exec, hu] at h <;> cases h
  · exact .inl (heffect.setFsm .idle)
  · exact .inr rfl

/-- Settles O43: by the effect's tables a register that is not written holds, and `F_RANGE` writes none. -/
theorem setFrame : Obligations.SetFrame := by
  intro start values s t hexec
  have hstream : t.txStream = s.txStream := execSet_txStream hexec
  have hframer := exec_framer hexec
  rcases exec_set_next hexec with heffect | rfl
  · refine ⟨fun ch hout => ?_, fun hout => ?_, fun hout => ?_, fun hout => ?_,
      heffect.muxSel, heffect.linkUp, heffect.env, hstream, hframer⟩
    · rw [heffect.pulse, written_eq_none hout, Option.getD_none]
    · rw [heffect.enable, written_eq_none hout, Option.map_none, Option.getD_none]
    · rw [heffect.aux1, written_eq_none hout, Option.map_none, Option.getD_none]
    · rw [heffect.aux2, written_eq_none hout, Option.map_none, Option.getD_none]
  · exact ⟨fun _ _ => rfl, fun _ => rfl, fun _ => rfl, fun _ => rfl, rfl, rfl, rfl, hstream, hframer⟩

theorem memWrite_relay (v : Val) (s : State) : memWrite 26 v s = .next (s.writeEnable (decide (v ≠ 0))) := by
  rw [← truth_eq_decide]
  rfl

theorem State.pwmOut_of_disabled {s : State} (h : s.enable = false) (p : Fin 18) : s.pwmOut p = .deasserted := by
  rw [State.pwmOut, if_neg (by simp [h])]

/-- Settles O41: the one slot writes `enable`, of which the pin and all 18 outputs are functions. -/
theorem setRelayGatesAllOutputs : Obligations.SetRelayGatesAllOutputs := by
  intro v s
  refine ⟨_, exec_set_singleton (by decide) (memWrite_relay v s), rfl, rfl, State.gpio_relay _,
    fun hv ch => ?enabled, fun hv p => ?disabled⟩
  case enabled =>
    rw [State.pwmOut_pwmIndex]
    exact if_pos (decide_eq_true hv)
  case disabled => exact State.pwmOut_of_disabled (decide_eq_false (not_not_intro hv)) p

theorem setSlotOutput_actuator (ch : Fin 18) (v : Val) : setSlotOutput ch.val v = [.pulse ch v] := by
  rw [setSlotOutput, kind_actuator]

theorem setSlotOutput_sensor {idx : Nat} (h : (kind idx).isSensor = true) (v : Val) :
    setSlotOutput idx v = [.diag (.setRo idx)] := by
  rcases Kind.isSensor_cases h with hk | hk | hk <;> rw [setSlotOutput, hk]

/-- Settles O56: the calls of each slot's one output, by the channel's kind. -/
theorem setSlotCalls : Obligations.SetSlotCalls := by
  intro v
  refine ⟨fun ch => ?actuator, fun idx hlow hhigh => ?sensor, ?relay, fun idx hidx => ?auxiliary⟩
  case actuator =>
    rw [setSlotOutput_actuator]
    rfl
  case sensor =>
    rw [setSlotOutput_sensor ((kind_isSensor idx).2 ⟨hlow, hhigh⟩)]
    rfl
  case relay =>
    change [if truth v = true then Call.enableAll else .disableAll, .write (Config.gpioPin 26) (truth v)] = _
    by_cases hv : v = 0 <;> simp [truth_eq_decide, hv]
  case auxiliary =>
    rw [← truth_eq_decide]
    rcases hidx with rfl | rfl <;> rfl

end Sys2Proof.Machine
end

section
/-! GET as a whole command (42_get.md R150 to R171; 93_implementation_defined.md S1). -/

namespace Sys2Proof.Machine

/-- Moving the framer's position is no part of a GET's effect. -/
theorem GetEffect.setFsm {start count : Nat} {s t : State} (h : GetEffect start count s t) (q : Fsm) :
    GetEffect start count s (t.setFsm q) :=
  ⟨h.pulse, h.enable, h.aux1, h.aux2, h.linkUp, h.muxSel, h.env⟩

/-- Settles O44: the walk over a valid, answered range completes with the tables' effect, and the framer is then put
back. -/
theorem getCompletesWithItsEffect : Obligations.GetCompletesWithItsEffect := by
  intro start count s hwf hanswered
  rcases execGet_cases start count s with ⟨-, -, t, hexec, heffect, hframer, hout⟩ | ⟨-, hnot, -⟩ | ⟨hrange, -⟩
  · exact ⟨_, hexec, heffect.setFsm .idle, by rw [State.setFsm_framer, hframer], hout⟩
  · exact absurd hanswered hnot
  · rw [← Instr.wf_get, hwf] at hrange
    cases hrange

/-- Settles O50: on a valid range a GET either completes, its reads answered, or is stuck, one of them not. -/
theorem unansweredReadIsStuck : Obligations.UnansweredReadIsStuck := by
  intro start count s hwf
  rcases execGet_cases start count s with ⟨-, hanswered, t, hexec, -⟩ | ⟨-, hnot, hexec⟩ | ⟨hrange, -⟩
  · simp [exec, hexec, hanswered]
  · simp [exec, hexec, hnot]
  · rw [← Instr.wf_get, hwf] at hrange
    cases hrange

/-- What a GET that answers a next state has done: its effect on a valid range, or only `F_RANGE`. -/
theorem exec_get_next {start count : Field} {s t : State} (h : exec (.get start count) s = .next t) :
    ((Instr.get start count).wf = true ∧ GetEffect start.toNat count.toNat s t ∧
      t.out = s.out ++ echoOutputs start count ++ slotOutputs start.toNat count.toNat s) ∨
    ((Instr.get start count).wf = false ∧ t = s.raiseFault (.range start.toNat count.toNat)) := by
  rcases execGet_cases start count s with ⟨hwf, -, u, hu, heffect, -, hout⟩ | ⟨-, -, hu⟩ | ⟨hwf, hu⟩ <;>
    rw [exec, hu] at h <;> cases h
  · exact .inl ⟨hwf, heffect.setFsm .idle, hout⟩
  · exact .inr ⟨hwf, rfl⟩

/-- Settles O49: the effect's tables name no other register, a range without sensors makes no read, and `F_RANGE`
changes none. -/
theorem getFrame : Obligations.GetFrame := by
  intro start count s t hexec
  have hframer := exec_framer hexec
  rcases exec_get_next hexec with ⟨hwf, heffect, -⟩ | ⟨-, rfl⟩
  · refine ⟨heffect.pulse, heffect.enable, heffect.aux1, heffect.aux2, heffect.linkUp, hframer,
      by rw [heffect.env]; rfl, by rw [heffect.env]; rfl, fun hno => ?_⟩
    rw [Instr.wf_get, rangeValid_iff] at hwf
    have hreads : sensorsBetween start.toNat (start.toNat + count.toNat) = 0 := by
      rcases hno with hbelow | habove | hzero | hout
      · simp only [sensorsBetween]; omega
      · simp only [sensorsBetween]; omega
      · rw [hzero]
        exact sensorsBetween_self _
      · omega
    exact ⟨by rw [heffect.muxSel, if_pos hreads], by rw [heffect.env, hreads, afterReads_zero]⟩
  · exact ⟨rfl, rfl, rfl, rfl, rfl, hframer, rfl, rfl, fun _ => ⟨rfl, rfl⟩⟩

/-! ## The response -/

/-- A slot sends the two bytes of its value, whatever it puts out beside them (R167). -/
theorem getSlotOutputs_sends (start : Nat) (s : State) (idx : Nat) :
    (getSlotOutputs start s idx).filterMap Output.tx? = valueBytes (getValue start s idx) := by
  have hpulse : (pulseReads s idx).filterMap Output.tx? = [] := by
    unfold pulseReads
    split <;> rfl
  have hsensor : ∀ a : Option AdcAnswer, ((a.map (sensorOutputs idx)).getD []).filterMap Output.tx? = [] := by
    rintro (_ | _ | _) <;> rfl
  rw [getSlotOutputs, List.filterMap_append, List.filterMap_append, hpulse, apply_ite (List.filterMap Output.tx?),
    hsensor, List.filterMap_nil, ite_self]
  rfl

/-- The values a GET returns, channels ascending (R150, R152). -/
def getValues (start count : Nat) (s : State) : List Val := (List.range' start count).map (getValue start s)

theorem slotOutputs_sends (start count : Nat) (s : State) :
    (slotOutputs start count s).filterMap Output.tx? = (getValues start count s).flatMap valueBytes := by
  simp only [slotOutputs, getValues, List.filterMap_flatMap, getSlotOutputs_sends, List.flatMap_map]

/-- What a GET on a valid range sends is its response, of the values the tables give (R169). -/
theorem exec_get_txStream {start count : Field} {s t : State} (hwf : (Instr.get start count).wf = true)
    (h : exec (.get start count) s = .next t) :
    t.txStream = s.txStream ++ response start count (getValues start.toNat count.toNat s) := by
  rcases exec_get_next h with ⟨-, -, hout⟩ | ⟨hnot, -⟩
  · rw [State.txStream, hout, List.filterMap_append, List.filterMap_append, slotOutputs_sends, List.append_assoc]
    rfl
  · rw [hwf] at hnot
    cases hnot

theorem response_length (start count : Field) (values : List Val) :
    (response start count values).length = 3 + 2 * values.length := by
  simp only [response, List.length_cons, Laws.EncodedForm.payload_length]
  omega

theorem response_tail_data {start count : Field} {values : List Val} {b : Byte}
    (h : b ∈ (response start count values).tail) : isCommand b = false := by
  rcases List.mem_cons.1 h with rfl | h
  · exact isCommand_dataByte _
  · rcases List.mem_cons.1 h with rfl | h
    · exact isCommand_dataByte _
    · exact Laws.EncodedForm.payload_data h

theorem getValues_length (start count : Nat) (s : State) : (getValues start count s).length = count := by
  rw [getValues, List.length_map, List.length_range']

/-- Settles O48: the response carries one value for each slot, and only data bytes after its command byte. -/
theorem getSendsOneWholeResponse : Obligations.GetSendsOneWholeResponse := by
  intro start count s t hwf hexec
  have hlength := getValues_length start.toNat count.toNat s
  exact ⟨_, hlength, exec_get_txStream hwf hexec, by rw [response_length, hlength], fun _ => response_tail_data⟩

/-! ## A GET after a SET -/

/-- A GET of one channel that is no sensor always completes, and returns the channel's register (R153, R159). -/
theorem exec_get_register {start : Field} (s : State) (h : start.toNat ≤ 28)
    (hregister : start.toNat ≤ 17 ∨ 26 ≤ start.toNat) :
    ∃ t, exec (.get start 1) s = .next t ∧
      t.txStream = s.txStream ++ response start 1 [getValue start.toNat s start.toNat] := by
  have hwf : (Instr.get start 1).wf = true := rangeValid_iff.2 ⟨h, Nat.succ_le_succ h⟩
  have hreads : sensorsBetween start.toNat (start.toNat + (1 : Field).toNat) = 0 := by
    change sensorsBetween start.toNat (start.toNat + 1) = 0
    simp only [sensorsBetween]
    omega
  have hanswered : Answered s (sensorsBetween start.toNat (start.toNat + (1 : Field).toNat)) := by
    intro j hj
    omega
  obtain ⟨t, hexec, -⟩ := getCompletesWithItsEffect start 1 s hwf hanswered
  exact ⟨t, hexec, exec_get_txStream hwf hexec⟩

theorem levelValue_truth (v : Val) : levelValue (truth v) = if v = 0 then 0 else 1 := by
  by_cases hv : v = 0 <;> simp [levelValue, truth, hv]

/-- After a SET of one value to a channel that is no sensor, the channel returns the value, or its truth as 0 or 1. -/
theorem SetEffect.getValue_eq {idx : Nat} {v : Val} {s t : State} (h : SetEffect idx [v] s t) :
    (idx ≤ 17 → getValue idx t idx = v) ∧
    (26 ≤ idx → idx ≤ 28 → getValue idx t idx = if v = 0 then 0 else 1) := by
  refine ⟨fun hle => ?actuator, fun hlow hhigh => ?digital⟩
  case actuator =>
    obtain ⟨ch, rfl⟩ : ∃ ch : Fin 18, ch.val = idx := ⟨⟨idx, by omega⟩, rfl⟩
    simp only [getValue, kind_actuator]
    simp [h.pulse ch, written_cons]
  case digital =>
    rw [← levelValue_truth]
    obtain rfl | rfl | rfl : idx = 26 ∨ idx = 27 ∨ idx = 28 := by omega
    · exact congrArg levelValue h.enable
    · exact congrArg levelValue h.aux1
    · exact congrArg levelValue h.aux2

/-- Settles O52: the SET sends nothing and leaves its value in the register that the GET returns. -/
theorem getReturnsLastSet : Obligations.GetReturnsLastSet := by
  intro start v s t hset
  have hstream : t.txStream = s.txStream := execSet_txStream hset
  have heffect (h : start.toNat ≤ 28) : SetEffect start.toNat [v] s t := by
    have hwf : (Instr.set start [v]).wf = true := rangeValid_iff.2 ⟨h, Nat.succ_le_succ h⟩
    obtain ⟨u, hu, heffect, -⟩ := setCompletesWithItsEffect start [v] s hwf
    obtain rfl : t = u := by simpa [hset] using hu
    exact heffect
  refine ⟨fun hle => ?actuator, fun hlow hhigh => ?digital⟩
  case actuator =>
    rw [← hstream, ← (heffect (by omega)).getValue_eq.1 hle]
    exact exec_get_register t (by omega) (.inl hle)
  case digital =>
    rw [← hstream, ← (heffect hhigh).getValue_eq.2 hlow hhigh]
    exact exec_get_register t hhigh (.inr hlow)

end Sys2Proof.Machine
end

section
/-! The quantisers over exact arithmetic (42_get.md R160 to R164; 30_encoding.md R89). -/

namespace Sys2Proof.Machine

/-! ## The nearest integer -/

/-- At or above 0 a value rounds to the floor of half a unit more (R163). -/
theorem rnd_of_nonneg {y : Rat} (h : 0 ≤ y) : rnd y = ⌊y + 1 / 2⌋ := if_pos h

/-- Below 0 a value rounds as its opposite does (R163). -/
theorem rnd_of_neg {y : Rat} (h : y < 0) : rnd y = -⌊-y + 1 / 2⌋ := if_neg (not_le.2 h)

theorem abs_rnd_sub_le (y : Rat) : |(rnd y : Rat) - y| ≤ 1 / 2 := by
  rw [abs_le]
  rcases le_or_gt 0 y with h | h
  · have hlow := Int.floor_le (y + 1 / 2)
    have hhigh := Int.lt_floor_add_one (y + 1 / 2)
    rw [rnd_of_nonneg h]
    constructor <;> linarith
  · have hlow := Int.floor_le (-y + 1 / 2)
    have hhigh := Int.lt_floor_add_one (-y + 1 / 2)
    rw [rnd_of_neg h]
    push_cast
    constructor <;> linarith

/-- Settles O57: half a unit is added away from zero and the floor taken, exact at a tie. -/
theorem roundsHalfAwayFromZero : Obligations.RoundsHalfAwayFromZero := by
  refine fun y => ⟨abs_rnd_sub_le y, fun n => ⟨fun hn hy => ?above, fun hn hy => ?below⟩⟩
  case above =>
    have hn' : (0 : Rat) ≤ n := by exact_mod_cast hn
    rw [rnd_of_nonneg (by linarith), Int.floor_eq_iff]
    push_cast
    constructor <;> linarith
  case below =>
    have hn' : (n : Rat) ≤ -1 := by exact_mod_cast Int.le_sub_one_of_lt hn
    have hfloor : ⌊-y + 1 / 2⌋ = -n := by
      rw [Int.floor_eq_iff]
      push_cast
      constructor <;> linarith
    rw [rnd_of_neg (by linarith), hfloor, neg_neg]

/-- No other integer is within half a unit of an integer. -/
theorem rnd_intCast (n : Int) : rnd (n : Rat) = n := by
  have hnear := abs_le.1 (abs_rnd_sub_le n)
  have hlow : n - 1 < rnd n := by
    have : ((n - 1 : Int) : Rat) < rnd n := by push_cast; linarith [hnear.1]
    exact_mod_cast this
  have hhigh : rnd n < n + 1 := by
    have : (rnd n : Rat) < (n + 1 : Int) := by push_cast; linarith [hnear.2]
    exact_mod_cast this
  omega

theorem rnd_nonneg {y : Rat} (h : 0 ≤ y) : 0 ≤ rnd y := by
  rw [rnd_of_nonneg h, Int.floor_nonneg]
  linarith

theorem rnd_nonpos {y : Rat} (h : y < 0) : rnd y ≤ 0 := by
  rw [rnd_of_neg h, neg_nonpos, Int.floor_nonneg]
  linarith

theorem rnd_mono : Monotone rnd := by
  intro x y hxy
  rcases le_or_gt 0 x with hx | hx
  · rw [rnd_of_nonneg hx, rnd_of_nonneg (hx.trans hxy)]
    exact Int.floor_le_floor (by linarith)
  · rcases le_or_gt 0 y with hy | hy
    · exact (rnd_nonpos hx).trans (rnd_nonneg hy)
    · rw [rnd_of_neg hx, rnd_of_neg hy, neg_le_neg_iff]
      exact Int.floor_le_floor (by linarith)

/-! ## The clamp -/

/-- `sat14` as a number: the nearest of 0 to 16383 (R164). -/
theorem toNat_sat14 (n : Int) : ((sat14 n).toNat : Int) = max 0 (min n 16383) := by
  unfold sat14
  split
  · simp; omega
  · split
    · simp; omega
    · rw [BitVec.toNat_ofNat]
      omega

/-- Settles O58: the three cases of the clamp. -/
theorem saturatesToFourteenBits : Obligations.SaturatesToFourteenBits := by
  intro n
  have hclamp := toNat_sat14 n
  refine ⟨fun hneg => BitVec.eq_of_toNat_eq ?_, fun hlarge => ?_, fun hlow hhigh => ?_⟩
  · change (sat14 n).toNat = 0
    omega
  · omega
  · omega

theorem sat14_toNat_mono {m n : Int} (h : m ≤ n) : (sat14 m).toNat ≤ (sat14 n).toNat := by
  have hm := toNat_sat14 m
  have hn := toNat_sat14 n
  omega

/-- A 14-bit value is not clamped. -/
theorem sat14_toNat (n : Val) : sat14 (n.toNat : Int) = n := by
  have hclamp := toNat_sat14 (n.toNat : Int)
  have hlt := n.isLt
  apply BitVec.eq_of_toNat_eq
  omega

/-! ## The quantisers -/

/-- Settles O60: scaling by a positive number, rounding, the offset and the clamp each keep the order. -/
theorem quantisersMonotone : Obligations.QuantisersMonotone := by
  intro x y hxy
  refine ⟨sat14_toNat_mono (rnd_mono ?voltage), sat14_toNat_mono (Int.add_le_add_right (rnd_mono ?current) _)⟩
  case voltage => exact mul_le_mul_of_nonneg_right hxy (by norm_num [kv])
  case current => exact div_le_div_of_nonneg_right hxy (by norm_num [ki])

/-- Settles O59: undoing the host's scaling gives an integer back, which neither rounding nor the clamp moves. -/
theorem quantiserInvertsHostDecoding : Obligations.QuantiserInvertsHostDecoding := by
  intro n
  refine ⟨?voltage, ?current⟩
  case voltage =>
    have hscale : (n.toNat * 33 / 10240 : Rat) * kv = (n.toNat : Int) := by
      rw [kv]
      push_cast
      ring
    rw [quantiseVoltage, hscale, rnd_intCast, sat14_toNat]
  case current =>
    have hscale : ((n.toNat : Rat) - 512) * 407 / 5000 / ki = ((n.toNat : Int) - iOffset : Int) := by
      rw [ki, iOffset]
      push_cast
      ring
    rw [quantiseCurrent, hscale, rnd_intCast, sub_add_cancel, sat14_toNat]

end Sys2Proof.Machine
end

section
/-! The state after reset (70_reset_and_hazards.md R240, R241) and the environment's events (40_framer.md R101,
R103). -/

namespace Sys2Proof.Machine

theorem reset_pulse (ch : Fin 18) : State.reset.pulse[ch.val] = Config.pulseReset ch := by
  fin_cases ch <;> rfl

/-- Settles O9: each port is the level its register gives it. -/
theorem resetState : Obligations.ResetState := by
  refine ⟨rfl, rfl, rfl, rfl, State.gpio_relay _, State.gpio_aux1 _, State.gpio_aux2 _, rfl,
    State.pwmOut_of_disabled rfl, reset_pulse, fun ch => ?width, rfl, rfl, rfl, rfl, rfl⟩
  case width => rw [State.pwmWidth_pwmIndex, reset_pulse]

theorem reset_inv : State.reset.Inv :=
  ⟨sound_of_header (by decide) (by decide), fun _ => ⟨rfl, rfl, rfl, rfl, rfl, rfl⟩, .inl rfl⟩

/-- Settles O10: reset leaves no packet in progress, every level at its reset value and nothing sent. -/
theorem resetMeetsInvariant : Obligations.ResetMeetsInvariant := ⟨reset_inv, .none⟩

/-- Settles O13: the model's laws of taking an event. -/
theorem eventsTakenInOrder : Obligations.EventsTakenInOrder :=
  ⟨fun _ _ _ h => nextEvent_cons h, nextEvent_eq⟩

/-- Settles O14: both events are looked at only while the link is up. -/
theorem nothingPulledWhileLinkDown : Obligations.NothingPulledWhileLinkDown := by
  intro s u e hnext hdown he
  obtain ⟨env, rfl⟩ := exists_setEnv_of_nextEvent hnext
  rw [step_of_nextEvent hnext]
  rcases he with rfl | ⟨b, rfl⟩ <;> exact if_neg (by simp [hdown])

/-- Settles O16: the step is `applyReset`, field by field. -/
theorem resetInputResets : Obligations.ResetInputResets := by
  intro s u hnext
  obtain ⟨env, rfl⟩ := exists_setEnv_of_nextEvent hnext
  exact ⟨_, step_of_nextEvent hnext, rfl, rfl, rfl, rfl, rfl, rfl, rfl, rfl, rfl⟩

end Sys2Proof.Machine
end

section
/-! The invariant of 10_state.md R33 (with R24, R103, R215), kept by every step. -/

namespace Sys2Proof.Machine

/-- What a step can do, said of the state before it: taking the event moves the environment's side alone (R101). -/
theorem step_setEnv_cases {s t : State} (h : step s = .next t) :
    ∃ env, EventCase (nextEvent s).1 (s.setEnv env) t := by
  obtain ⟨env, henv, -, -⟩ := nextEvent_eq s
  exact ⟨env, henv ▸ step_cases h⟩

theorem State.waitsAtReset_of_linkUp {s : State} (h : s.linkUp = true) : s.WaitsAtReset := by
  intro hdown
  rw [h] at hdown
  cases hdown

theorem State.MuxSound.of_muxSel_eq {s t : State} (h : s.MuxSound) (heq : t.muxSel = s.muxSel) : t.MuxSound := by
  unfold State.MuxSound
  rwa [heq]

theorem exec_linkUp {i : Instr} {s t : State} (h : exec i s = .next t) : t.linkUp = s.linkUp := by
  cases i with
  | set start values =>
    obtain ⟨-, -, -, -, -, hlink, -⟩ := setFrame _ _ _ _ h
    exact hlink
  | get start count =>
    obtain ⟨-, -, -, -, hlink, -⟩ := getFrame _ _ _ _ h
    exact hlink

/-- The address a GET leaves selected is that of the last sensor in its range (42_get.md R155 to R157). -/
theorem GetEffect.muxSound {start count : Nat} {s t : State} (h : GetEffect start count s t) (hs : s.MuxSound) :
    t.MuxSound := by
  have hmux := h.muxSel
  split at hmux
  · exact hs.of_muxSel_eq hmux
  · next hreads =>
    simp only [sensorsBetween] at hreads
    exact .inr ⟨_, by omega, by omega, hmux⟩

theorem exec_muxSound {i : Instr} {s t : State} (h : exec i s = .next t) (hs : s.MuxSound) : t.MuxSound := by
  cases i with
  | set start values =>
    obtain ⟨-, -, -, -, hmux, -⟩ := setFrame _ _ _ _ h
    exact hs.of_muxSel_eq hmux
  | get start count =>
    rcases exec_get_next h with ⟨-, heffect, -⟩ | ⟨-, rfl⟩
    · exact heffect.muxSound hs
    · exact hs

/-- A command ends in `IDLE`, so it leaves the invariant true whatever packet it came from. -/
theorem exec_inv {i : Instr} {s t : State} (h : exec i s = .next t) (hlink : s.linkUp = true) (hmux : s.MuxSound) :
    t.Inv := by
  have hfsm : t.framer.fsm = .idle := by rw [exec_framer h]
  exact ⟨sound_of_header (by simp [hfsm]) (by simp [hfsm]),
    State.waitsAtReset_of_linkUp ((exec_linkUp h).trans hlink), exec_muxSound h hmux⟩

theorem EventCase.inv {e : InputEvent} {u t : State} (h : EventCase e u t) (hu : u.Inv) : t.Inv := by
  cases h with
  | reset _ ht =>
    subst ht
    exact ⟨reset_inv.framer, reset_inv.waits, reset_inv.mux⟩
  | link _ ht =>
    subst ht
    exact ⟨hu.framer, State.waitsAtReset_of_linkUp rfl, hu.mux⟩
  | quiet ht =>
    subst ht
    exact hu
  | move f hlink hsound ht =>
    subst ht
    exact ⟨hsound hu.framer, State.waitsAtReset_of_linkUp hlink, hu.mux⟩
  | faults f ds hlink hfsm _ _ ht =>
    subst ht
    have hsound : f.Sound := by
      rcases hfsm with hfsm | hfsm <;> exact sound_of_header (by simp [hfsm]) (by simp [hfsm])
    exact ⟨hsound, State.waitsAtReset_of_linkUp hlink, hu.mux⟩
  | get d f _ _ hlink _ _ _ hexec => exact exec_inv (i := .get _ _) hexec hlink hu.mux
  | emptySet d f _ _ hlink hexec => exact exec_inv (i := .set _ _) hexec hlink hu.mux
  | set d f _ _ hlink _ _ hexec => exact exec_inv (i := .set _ _) hexec hlink hu.mux

/-- Settles O11: the invariant does not look at the environment's side, and each case of an event keeps it. -/
theorem stepKeepsInvariant : Obligations.StepKeepsInvariant := by
  intro s t hs hstep
  obtain ⟨env, hcase⟩ := step_setEnv_cases hstep
  exact hcase.inv ⟨hs.framer, hs.waits, hs.mux⟩

/-- Settles O55: the mode is defined by the two registers, and the invariant has `enable` at 0 while waiting. -/
theorem modeFollowsLinkAndEnable : Obligations.ModeFollowsLinkAndEnable := by
  intro s hs
  cases hlink : s.linkUp with
  | false =>
    obtain ⟨-, henable, -⟩ := hs.waits hlink
    simp [State.mode, State.idleIndicatorRun, hlink, henable, State.pwmOut_of_disabled]
  | true => cases henable : s.enable <;> simp [State.mode, State.idleIndicatorRun, hlink, henable]

/-! ## The outbound stream -/

/-- Settles O12: a step that sends is the dispatch of a GET of a valid range, which sends one whole response. -/
theorem stepKeepsWholeResponses : Obligations.StepKeepsWholeResponses := by
  intro s t hs hstep
  by_cases hstream : t.txStream = s.txStream
  · rwa [hstream]
  · obtain ⟨hlink, hfsm, hcmd, d, u, hnext, hd, hstart, hend⟩ := onlyGetDispatchSends s t hstep hstream
    obtain ⟨hdispatch, -, -⟩ := getHeaderDispatches s u d hnext hlink hd hfsm hcmd hstart hend
    obtain ⟨env, rfl⟩ := exists_setEnv_of_nextEvent hnext
    have hvalid : rangeValid s.framer.start.toNat (fieldOf d).toNat = true :=
      (rangeValid_fieldOf_iff hd).2 ⟨hstart, hend⟩
    obtain ⟨values, hlength, hsent, -⟩ := getSendsOneWholeResponse _ _ _ _ hvalid (hdispatch.symm.trans hstep)
    rw [hsent]
    exact .more _ _ _ values hs hvalid hlength

end Sys2Proof.Machine
end

section
/-! What a step cannot do: act on a packet fault, change a latch by anything but its slot, or stop but for a read
that is never answered (40_framer.md R121; 43_gate.md R187; 60_exceptions.md R230, R231). -/

namespace Sys2Proof.Machine

/-! ## Packet faults -/

/-- The registers a command can set, `mux_sel` and the bytes sent are as before (40_framer.md R121). -/
def KeepsActuators (s t : State) : Prop :=
  t.pulse = s.pulse ∧ t.enable = s.enable ∧ t.aux1 = s.aux1 ∧ t.aux2 = s.aux2 ∧ t.muxSel = s.muxSel ∧
    t.txStream = s.txStream

theorem keepsActuators_raiseFault (s : State) (d : Diag) : KeepsActuators s (s.raiseFault d) :=
  ⟨rfl, rfl, rfl, rfl, rfl, txStream_of_out_append rfl rfl⟩

/-- The only diagnostics of a SET's slots are `N_SET_RO` notices (41_set.md R134). -/
theorem code_of_mem_setOutputs {start : Nat} {values : List Val} {d : Diag} (h : .diag d ∈ setOutputs start values) :
    d.code = 6 := by
  obtain ⟨⟨v, idx⟩, -, hslot⟩ := List.mem_flatMap.1 h
  change .diag d ∈ setSlotOutput idx v at hslot
  unfold setSlotOutput at hslot
  split at hslot <;> simp at hslot <;> rw [hslot, Diag.code]

theorem diag_not_mem_echoOutputs (start count : Field) (d : Diag) : .diag d ∉ echoOutputs start count := by
  simp [echoOutputs]

/-- The only diagnostics of a GET's slots are `N_ADC_FAIL` notices (42_get.md R166). -/
theorem code_of_mem_slotOutputs {start count : Nat} {s : State} {d : Diag} (h : .diag d ∈ slotOutputs start count s) :
    d.code = 7 := by
  obtain ⟨idx, -, hslot⟩ := List.mem_flatMap.1 h
  have hpulse : .diag d ∉ pulseReads s idx := by
    unfold pulseReads
    split <;> simp
  have hsensor : ∀ a : Option AdcAnswer, .diag d ∈ (a.map (sensorOutputs idx)).getD [] → d.code = 7 := by
    rintro (_ | _ | _) ha <;> simp [sensorOutputs] at ha
    rw [ha, Diag.code]
  rw [getSlotOutputs, List.mem_append, List.mem_append] at hslot
  rcases hslot with (hslot | hslot) | hslot
  · exact absurd hslot hpulse
  · split at hslot
    · exact hsensor _ hslot
    · cases hslot
  · simp [valueOutputs] at hslot

/-- A command that raises a packet fault has failed its range check, and then does nothing else (40_framer.md R113). -/
theorem exec_keepsActuators_of_fault {i : Instr} {s t : State} {d : Diag} {news : List Output}
    (h : exec i s = .next t) (hout : t.out = s.out ++ news) (hmem : .diag d ∈ news) (hcode : d.code ≤ 5) :
    KeepsActuators s t := by
  cases i with
  | set start values =>
    rcases exec_set_next h with heffect | rfl
    · rw [heffect.out, List.append_cancel_left_eq] at hout
      have := code_of_mem_setOutputs (hout ▸ hmem)
      omega
    · exact keepsActuators_raiseFault s _
  | get start count =>
    rcases exec_get_next h with ⟨-, -, hget⟩ | ⟨-, rfl⟩
    · rw [hget, List.append_assoc, List.append_cancel_left_eq] at hout
      rcases List.mem_append.1 (hout ▸ hmem) with hecho | hslot
      · exact absurd hecho (diag_not_mem_echoOutputs start count d)
      · have := code_of_mem_slotOutputs hslot
        omega
    · exact keepsActuators_raiseFault s _

theorem EventCase.keepsActuators_of_fault {e : InputEvent} {u t : State} {d : Diag} {news : List Output}
    (h : EventCase e u t) (hout : t.out = u.out ++ news) (hmem : .diag d ∈ news) (hcode : d.code ≤ 5) :
    KeepsActuators u t := by
  have hnews : t.out ≠ u.out := by
    intro heq
    rw [heq, List.self_eq_append_right] at hout
    simp [hout] at hmem
  cases h with
  | reset _ ht => exact absurd (by rw [ht]; rfl) hnews
  | link _ ht => exact absurd (by rw [ht]; rfl) hnews
  | quiet ht => exact absurd (by rw [ht]) hnews
  | move f _ _ ht => exact absurd (by rw [ht]; rfl) hnews
  | faults f ds _ _ _ _ ht =>
    subst ht
    refine ⟨rfl, rfl, rfl, rfl, rfl, txStream_of_out_append (news := ds.map .diag) rfl ?_⟩
    simp [List.filterMap_map, Function.comp_def, Output.tx?]
  | get d' f _ _ _ _ _ _ hexec =>
    exact exec_keepsActuators_of_fault (i := .get _ _) (s := u.setFramer f) hexec hout hmem hcode
  | emptySet d' f _ _ _ hexec =>
    exact exec_keepsActuators_of_fault (i := .set _ _) (s := u.setFramer f) hexec hout hmem hcode
  | set d' f _ _ _ _ _ hexec =>
    exact exec_keepsActuators_of_fault (i := .set _ _) (s := u.setFramer f) hexec hout hmem hcode

/-- Settles O33: only a packet fault, or a command that fails its range check, puts out such a diagnostic. -/
theorem packetFaultHasNoEffect : Obligations.PacketFaultHasNoEffect := by
  intro s t d news hstep hout hmem hcode
  obtain ⟨env, hcase⟩ := step_setEnv_cases hstep
  exact hcase.keepsActuators_of_fault hout hmem hcode

/-! ## Latches -/

/-- What can become of the three latches: reset, nothing, or a SET dispatched by its last payload byte. -/
theorem EventCase.latch_cases {e : InputEvent} {u t : State} (h : EventCase e u t) :
    e = .rst ∨ (t.enable = u.enable ∧ t.aux1 = u.aux1 ∧ t.aux2 = u.aux2) ∨
    (u.linkUp = true ∧ u.framer.fsm = .payHi ∧ u.framer.k.toNat + 1 = u.framer.count.toNat ∧
      (∃ d, e = .byte d ∧ isCommand d = false) ∧
      ∃ f values, values.length ≤ u.framer.count.toNat ∧
        exec (.set u.framer.start values) (u.setFramer f) = .next t) := by
  cases h with
  | reset he => exact .inl he
  | link _ ht => exact .inr (.inl (by simp [ht]))
  | quiet ht => exact .inr (.inl (by simp [ht]))
  | move f _ _ ht => exact .inr (.inl (by simp [ht]))
  | faults f ds _ _ _ _ ht => exact .inr (.inl (by simp [ht]))
  | get d f _ _ _ _ _ _ hexec =>
    obtain ⟨-, henable, haux1, haux2, -⟩ := getFrame _ _ _ _ hexec
    exact .inr (.inl ⟨henable, haux1, haux2⟩)
  | emptySet d f _ _ _ hexec =>
    obtain ⟨-, henable, haux1, haux2, -⟩ := setFrame _ _ _ _ hexec
    simp only [List.length_nil] at henable haux1 haux2
    exact .inr (.inl ⟨henable (by omega), haux1 (by omega), haux2 (by omega)⟩)
  | set d f he hd hlink hfsm hlast hexec =>
    exact .inr (.inr ⟨hlink, hfsm, hlast, ⟨d, he, hd⟩, f, _, List.length_take_le _ _, hexec⟩)

/-- Settles O35: a SET whose range does not cover a latch's channel leaves the latch, by SET's frame. -/
theorem latchesChangeOnlyByTheirSlots : Obligations.LatchesChangeOnlyByTheirSlots := by
  intro s t hstep
  obtain ⟨env, hcase⟩ := step_setEnv_cases hstep
  rcases hcase.latch_cases with
    hrst | ⟨henable, haux1, haux2⟩ | ⟨hlink, hfsm, hlast, ⟨d, hbyte, hd⟩, f, values, hlength, hset⟩
  · exact ⟨fun _ => .inl hrst, fun _ => .inl hrst, fun _ => .inl hrst⟩
  · exact ⟨fun hne => absurd henable hne, fun hne => absurd haux1 hne, fun hne => absurd haux2 hne⟩
  · obtain ⟨-, henable, haux1, haux2, -⟩ := setFrame _ _ _ _ hset
    have hdispatch (idx : Nat)
        (hcover : s.framer.start.toNat ≤ idx ∧ idx < s.framer.start.toNat + values.length) : DispatchesSetOn s idx :=
      ⟨hlink, hfsm, hlast, hcover.1, hcover.2.trans_le (Nat.add_le_add_left hlength _), d, _, Prod.ext hbyte rfl, hd⟩
    exact ⟨fun hne => .inr (hdispatch 26 (not_imp_comm.1 henable hne)),
      fun hne => .inr (hdispatch 27 (not_imp_comm.1 haux1 hne)),
      fun hne => .inr (hdispatch 28 (not_imp_comm.1 haux2 hne))⟩

/-! ## Stops -/

theorem answered_of_not_mem {s : State} (h : none ∉ s.env.adcScript) (n : Nat) : Answered s n := by
  intro j _
  unfold answerAt
  split
  · next a ha =>
    rintro rfl
    exact h (List.mem_of_getElem? ha)
  · simp

theorem exec_completes {i : Instr} {s : State} (h : none ∉ s.env.adcScript) : ∃ t, exec i s = .next t := by
  cases i with
  | set start values =>
    obtain ⟨t, ht, -⟩ := exec_set_idle start values s
    exact ⟨t, ht⟩
  | get start count =>
    rcases execGet_cases start count s with ⟨-, -, t, ht, -⟩ | ⟨-, hnot, -⟩ | ⟨-, ht⟩
    · exact ⟨_, ht⟩
    · exact absurd (answered_of_not_mem h _) hnot
    · exact ⟨_, ht⟩

theorem onCountByte_completes {d : Byte} {s : State} (h : none ∉ s.env.adcScript) :
    ∃ t, onCountByte d s = .next t := by
  cases hrange : rangeValid s.framer.start.toNat (fieldOf d).toNat with
  | false => exact ⟨_, onCountByte_invalid hrange⟩
  | true =>
    cases hcmd : s.framer.cmd with
    | get =>
      rw [onCountByte_get hrange hcmd]
      exact exec_completes h
    | set =>
      by_cases hzero : fieldOf d = 0
      · rw [onCountByte_emptySet hrange hcmd hzero]
        exact exec_completes h
      · exact ⟨_, onCountByte_set hrange hcmd hzero⟩

theorem onHighByte_completes {d : Byte} {s : State} (h : none ∉ s.env.adcScript) :
    ∃ t, onHighByte d s = .next t := by
  by_cases hlast : s.framer.k.toNat + 1 = s.framer.count.toNat
  · rw [onHighByte_last hlast]
    exact exec_completes (i := .set _ _) h
  · exact ⟨_, onHighByte_more hlast⟩

theorem onDataByte_completes {d : Byte} {s : State} (h : none ∉ s.env.adcScript) :
    ∃ t, onDataByte d s = .next t := by
  cases hfsm : s.framer.fsm with
  | idle => exact ⟨_, onDataByte_idle hfsm⟩
  | hdrStart => exact ⟨_, onDataByte_hdrStart hfsm⟩
  | hdrCount =>
    rw [onDataByte_hdrCount hfsm]
    exact onCountByte_completes h
  | payLo => exact ⟨_, onDataByte_payLo hfsm⟩
  | payHi =>
    rw [onDataByte_payHi hfsm]
    exact onHighByte_completes h

theorem onEvent_completes {e : InputEvent} {s : State} (h : none ∉ s.env.adcScript) :
    ∃ t, onEvent e s = .next t := by
  cases e with
  | rst => exact ⟨_, rfl⟩
  | linkReady => exact ⟨_, rfl⟩
  | timeout =>
    cases hlink : s.linkUp <;> simp [onEvent, hlink]
  | byte b =>
    cases hlink : s.linkUp with
    | false => simp [onEvent, hlink]
    | true =>
      cases hb : isCommand b with
      | true => simp [onEvent, hlink, onByte, hb]
      | false => simpa [onEvent, hlink, onByte, hb] using onDataByte_completes h

/-- Settles O37: no event is refused, taking an event takes no ADC answer, and every event completes where each listed
answer comes. -/
theorem stepStopsOnlyOnUnansweredRead : Obligations.StepStopsOnlyOnUnansweredRead := by
  intro s
  refine ⟨onEvent_not_refused _ _, fun hanswers => onEvent_completes ?_⟩
  obtain ⟨env, henv, hscript, -⟩ := nextEvent_eq s
  rwa [henv, State.setEnv_env, hscript]

end Sys2Proof.Machine
end

section
/-! The framer against the encoder: it dispatches exactly the packet whose bytes it has pulled (40_framer.md R114 to
R117, R122; log entry 25). -/

namespace Sys2Proof

/-! ## Encodings -/

/-- The kind of a command (30_encoding.md R92). -/
def Instr.cmd : Instr → Cmd
  | .set _ _ => .set
  | .get _ _ => .get

/-- The count byte of a command (R73, R74). -/
def Instr.count : Instr → Field
  | .set _ values => BitVec.ofNat 7 values.length
  | .get _ count => count

/-- The payload of a command; a GET has none (R73, R74). -/
def Instr.payload : Instr → List Val
  | .set _ values => values
  | .get _ _ => []

/-- An encoding is the command byte, two data bytes and the payload's values (R73, R74). -/
theorem encode_eq (i : Instr) :
    encode i = cmdByte i.cmd :: dataByte i.start :: dataByte i.count :: i.payload.flatMap valueBytes := by
  cases i <;> rfl

theorem cmdByte_injective : Function.Injective cmdByte := by
  intro c d h
  simpa using congrArg cmdOf h

theorem toNat_count {i : Instr} (hwf : i.wf = true) : i.count.toNat = i.slots := by
  cases i with
  | set start values => exact toNat_count_of_wf hwf
  | get start count => rfl

/-- The framer's range check passes on the header of a well-formed command (40_framer.md R113). -/
theorem rangeValid_of_wf {i : Instr} (hwf : i.wf = true) : rangeValid i.start.toNat i.count.toNat = true := by
  rwa [toNat_count hwf, ← Instr.wf_eq]

/-- No encoding begins with another one. -/
theorem encode_append_inj {i j : Instr} {tail : List Byte} (hi : i.wf = true) (hj : j.wf = true)
    (h : encode i = encode j ++ tail) : i = j ∧ tail = [] := by
  have hread := decodeOfEncodeIsInstruction i [] hi
  rw [List.append_nil, h, decodeOfEncodeIsInstruction j tail hj] at hread
  simpa [eq_comm] using hread

/-- Every byte of an encoding but its first is a data byte (30_encoding.md R70). -/
theorem isCommand_of_encode {i : Instr} {before tail : List Byte} {b : Byte} (hwf : i.wf = true)
    (h : encode i = before ++ b :: tail) (hbefore : before ≠ []) : isCommand b = false := by
  have hform : Laws.EncodedForm.Statement i := by
    cases i with
    | set start values => exact Laws.EncodedForm.set start values
    | get start count => exact Laws.EncodedForm.get start count
  obtain ⟨-, c, data, hencode, -, hdata⟩ := hform hwf
  cases before with
  | nil => exact absurd rfl hbefore
  | cons a before =>
    rw [hencode, List.cons_append] at h
    obtain ⟨-, rfl⟩ := List.cons.inj h
    exact hdata b (by simp)

end Sys2Proof

namespace Sys2Proof.Machine

/-! ## The bytes pulled so far -/

theorem pulled_idle {f : Framer} (h : f.fsm = .idle) : f.pulled = [] := by
  simp [Framer.pulled, h]

theorem pulled_hdrStart {f : Framer} (h : f.fsm = .hdrStart) : f.pulled = [cmdByte f.cmd] := by
  simp [Framer.pulled, h]

theorem pulled_hdrCount {f : Framer} (h : f.fsm = .hdrCount) : f.pulled = [cmdByte f.cmd, dataByte f.start] := by
  simp [Framer.pulled, h]

theorem pulled_payLo {f : Framer} (h : f.fsm = .payLo) :
    f.pulled = cmdByte f.cmd :: dataByte f.start :: dataByte f.count ::
      (f.buf.toList.take f.k.toNat).flatMap valueBytes := by
  simp [Framer.pulled, h]

theorem pulled_payHi {f : Framer} (h : f.fsm = .payHi) :
    f.pulled = cmdByte f.cmd :: dataByte f.start :: dataByte f.count ::
      ((f.buf.toList.take f.k.toNat).flatMap valueBytes ++ [dataByte f.lo]) := by
  simp [Framer.pulled, h]

theorem fsm_ne_idle_of_pulled {f : Framer} (h : f.pulled ≠ []) : f.fsm ≠ .idle := fun hidle => h (pulled_idle hidle)

theorem pulled_ne_nil {f : Framer} (h : f.fsm ≠ .idle) : f.pulled ≠ [] := by
  cases hfsm : f.fsm with
  | idle => exact absurd hfsm h
  | hdrStart => simp [pulled_hdrStart hfsm]
  | hdrCount => simp [pulled_hdrCount hfsm]
  | payLo => simp [pulled_payLo hfsm]
  | payHi => simp [pulled_payHi hfsm]

/-- A framer of the invariant never holds a whole packet: the last byte would have dispatched it. -/
theorem pulled_ne_encode {f : Framer} {i : Instr} (hsound : f.Sound) (hwf : i.wf = true) : f.pulled ≠ encode i := by
  intro h
  rw [encode_eq] at h
  have hlength := congrArg List.length h
  simp only [List.length_cons, Laws.EncodedForm.payload_length] at hlength
  cases hfsm : f.fsm with
  | idle => simp [pulled_idle hfsm] at h
  | hdrStart => simp [pulled_hdrStart hfsm] at h
  | hdrCount => simp [pulled_hdrCount hfsm] at h
  | payLo =>
    obtain ⟨hcmd, -, -, hrange, hk⟩ := hsound (.inl hfsm)
    rw [pulled_payLo hfsm] at h hlength
    simp only [List.cons.injEq, cmdByte_injective.eq_iff, dataByte_injective.eq_iff] at h
    obtain ⟨hcmd', -, hcount, -⟩ := h
    cases i with
    | get start count => simp [hcmd, Instr.cmd] at hcmd'
    | set start values =>
      have hslots := toNat_count hwf
      simp only [List.length_cons, Laws.EncodedForm.payload_length, List.length_take, Vector.length_toList] at hlength
      simp only [← hcount, Instr.slots] at hslots
      simp only [Instr.payload] at hlength
      omega
  | payHi =>
    simp only [pulled_payHi hfsm, List.length_cons, List.length_append, Laws.EncodedForm.payload_length,
      List.length_nil] at hlength
    omega

/-! ## One data byte -/

/-- What a data byte does to a packet in progress, in terms of the bytes pulled. -/
inductive DataByteCase (d : Byte) (s : State) : Prop where
  /-- It is the last byte of a well-formed command, which is dispatched. -/
  | completes (i : Instr) : i.wf = true → encode i = s.framer.pulled ++ [d] →
      onDataByte d s = exec i (s.setFramer (s.framer.latch d)) → DataByteCase d s
  /-- The framer holds it and waits for the next. -/
  | moves (f : Framer) : f.Sound → f.pulled = s.framer.pulled ++ [d] → onDataByte d s = .next (s.setFramer f) →
      DataByteCase d s
  /-- It completes the header of a range that leaves the channel map. -/
  | outOfRange : s.framer.pulled = [cmdByte s.framer.cmd, dataByte s.framer.start] →
      rangeValid s.framer.start.toNat (fieldOf d).toNat = false → DataByteCase d s

section
variable {d : Byte} {s : State} (hd : isCommand d = false)
include hd

theorem dataByteCase_hdrStart (hfsm : s.framer.fsm = .hdrStart) : DataByteCase d s := by
  refine .moves { s.framer with start := fieldOf d, fsm := .hdrCount } (sound_of_header (by simp) (by simp)) ?_
    (onDataByte_hdrStart hfsm)
  rw [pulled_hdrStart hfsm, pulled_hdrCount rfl, dataByte_fieldOf hd]
  rfl

theorem dataByteCase_hdrCount (hfsm : s.framer.fsm = .hdrCount) : DataByteCase d s := by
  have hstep := onDataByte_hdrCount (d := d) hfsm
  have hlatch : s.framer.latch d = { s.framer with count := fieldOf d } := by simp [Framer.latch, hfsm]
  have hpulled := pulled_hdrCount hfsm
  cases hrange : rangeValid s.framer.start.toNat (fieldOf d).toNat with
  | false => exact .outOfRange hpulled hrange
  | true =>
    cases hcmd : s.framer.cmd with
    | get =>
      refine .completes (.get s.framer.start (fieldOf d)) hrange ?_ ?_
      · rw [encode_eq, hpulled, hcmd, ← dataByte_fieldOf hd]
        simp [Instr.cmd, Instr.start, Instr.count, Instr.payload]
      · rw [hstep, onCountByte_get hrange hcmd, hlatch]
    | set =>
      by_cases hzero : fieldOf d = 0
      · refine .completes (.set s.framer.start []) (by simpa [Instr.wf_set, hzero] using hrange) ?_ ?_
        · rw [encode_eq, hpulled, hcmd, ← dataByte_fieldOf hd, hzero]
          rfl
        · rw [hstep, onCountByte_emptySet hrange hcmd hzero, hlatch]
      · refine .moves { s.framer with count := fieldOf d, k := 0, fsm := .payLo } (fun _ => ?_) ?_
          (hstep.trans (onCountByte_set hrange hcmd hzero))
        · obtain ⟨hstart, hend⟩ := rangeValid_iff.1 hrange
          have hpos : 0 < (fieldOf d).toNat := Nat.pos_of_ne_zero fun h => hzero (BitVec.eq_of_toNat_eq h)
          exact ⟨hcmd, hstart, hpos, hend, hpos⟩
        · rw [hpulled, pulled_payLo rfl, dataByte_fieldOf hd]
          rfl

theorem dataByteCase_payLo (hsound : s.framer.Sound) (hfsm : s.framer.fsm = .payLo) : DataByteCase d s := by
  refine .moves { s.framer with lo := fieldOf d, fsm := .payHi } (fun _ => hsound (.inl hfsm)) ?_
    (onDataByte_payLo hfsm)
  rw [pulled_payLo hfsm, pulled_payHi rfl, dataByte_fieldOf hd]
  rfl

/-- The values stored after a high byte are, as bytes, the ones before and the two of the value it ends (R117). -/
theorem storePayload_bytes (hk : s.framer.k.toNat < 29) :
    ((storePayload d s.framer).buf.toList.take (s.framer.k.toNat + 1)).flatMap valueBytes =
      (s.framer.buf.toList.take s.framer.k.toNat).flatMap valueBytes ++ [dataByte s.framer.lo, d] := by
  rw [storePayload_take hk, List.flatMap_append, List.flatMap_singleton, valueBytes_dec, dataByte_fieldOf hd]

theorem dataByteCase_payHi (hsound : s.framer.Sound) (hfsm : s.framer.fsm = .payHi) : DataByteCase d s := by
  obtain ⟨hcmd, hstart, hpos, hrange, hk⟩ := hsound (.inr hfsm)
  have hstep := onDataByte_payHi (d := d) hfsm
  have hbytes := storePayload_bytes (s := s) hd (by omega)
  have hpulled := pulled_payHi hfsm
  by_cases hlast : s.framer.k.toNat + 1 = s.framer.count.toNat
  · have hlength : (storePayload d s.framer).values.length = s.framer.count.toNat := by
      simp only [Framer.values, List.length_take, Vector.length_toList]
      exact Nat.min_eq_left (show s.framer.count.toNat ≤ 29 by omega)
    refine .completes (.set s.framer.start (storePayload d s.framer).values) ?_ ?_ ?_
    · rw [Instr.wf_set, hlength]
      exact rangeValid_iff.2 ⟨hstart, hrange⟩
    · have hpayload : (storePayload d s.framer).values.flatMap valueBytes = _ := hlast ▸ hbytes
      rw [encode_eq, hpulled, hcmd]
      simp [Instr.cmd, Instr.start, Instr.count, Instr.payload, hlength, hpayload]
    · have hlatch : s.framer.latch d = storePayload d s.framer := by simp [Framer.latch, hfsm]
      rw [hstep, onHighByte_last hlast, hlatch]
      rfl
  · have hnext : (s.framer.k + 1).toNat = s.framer.k.toNat + 1 := BitVec.toNat_add_of_lt (by simp; omega)
    refine .moves { storePayload d s.framer with k := s.framer.k + 1, fsm := .payLo } (fun _ => ?_) ?_
      (hstep.trans (onHighByte_more hlast))
    · exact ⟨hcmd, hstart, hpos, hrange, show (s.framer.k + 1).toNat < s.framer.count.toNat by omega⟩
    · rw [hpulled, pulled_payLo rfl, hnext]
      simpa [storePayload] using hbytes

theorem dataByte_cases (hsound : s.framer.Sound) (hfsm : s.framer.fsm ≠ .idle) : DataByteCase d s := by
  cases hq : s.framer.fsm with
  | idle => exact absurd hq hfsm
  | hdrStart => exact dataByteCase_hdrStart hd hq
  | hdrCount => exact dataByteCase_hdrCount hd hq
  | payLo => exact dataByteCase_payLo hd hsound hq
  | payHi => exact dataByteCase_payHi hd hsound hq

end

/-- The next byte of a well-formed command whose first bytes have been pulled: the last one dispatches it, any other is
held. -/
theorem onByte_of_encode {i : Instr} {s : State} {b : Byte} {tail : List Byte} (hwf : i.wf = true)
    (hsound : s.framer.Sound) (hfsm : s.framer.fsm ≠ .idle) (h : encode i = s.framer.pulled ++ b :: tail) :
    (tail = [] ∧ onByte b s = exec i (s.setFramer (s.framer.latch b))) ∨
    (tail ≠ [] ∧ ∃ f : Framer, f.Sound ∧ f.fsm ≠ .idle ∧ f.pulled = s.framer.pulled ++ [b] ∧
      onByte b s = .next (s.setFramer f)) := by
  have hb := isCommand_of_encode hwf h (pulled_ne_nil hfsm)
  have hbyte : onByte b s = onDataByte b s := if_neg (by simp [hb])
  rw [hbyte]
  rcases dataByte_cases hb hsound hfsm with ⟨j, hj, hencode, hexec⟩ | ⟨f, hf, hpulled, hnext⟩ | ⟨hpulled, hrange⟩
  · have hsplit : encode i = encode j ++ tail := by rw [h, hencode, List.append_assoc, List.singleton_append]
    obtain ⟨rfl, htail⟩ := encode_append_inj hwf hj hsplit
    exact .inl ⟨htail, hexec⟩
  · refine .inr ⟨?_, f, hf, fsm_ne_idle_of_pulled (by simp [hpulled]), hpulled, hnext⟩
    rintro rfl
    exact pulled_ne_encode hf hwf (hpulled.trans h.symm)
  · rw [hpulled, encode_eq] at h
    simp only [List.cons_append, List.nil_append, List.cons.injEq, dataByte_injective.eq_iff] at h
    obtain ⟨-, hstart, rfl, -⟩ := h
    rw [← hstart, fieldOf_dataByte, rangeValid_of_wf hwf] at hrange
    cases hrange

/-- Settles O30: bytes that decode are an encoding, whose last byte dispatches it. -/
theorem stepRunsDecodedPacket : Obligations.StepRunsDecodedPacket := by
  intro s u b i hsound hlink hnext hdecode
  obtain ⟨hwf, hencode⟩ := decodeAcceptsOnlyEncodings _ _ _ hdecode
  rw [List.append_nil] at hencode
  obtain ⟨env, rfl⟩ := exists_setEnv_of_nextEvent hnext
  have hfsm : s.framer.fsm ≠ .idle := by
    intro hidle
    rw [pulled_idle hidle, encode_eq] at hencode
    simp at hencode
  rw [step_byte hlink hnext]
  rcases onByte_of_encode (s := s.setEnv env) hwf hsound hfsm hencode.symm with ⟨-, hexec⟩ | ⟨hne, -⟩
  · exact hexec
  · exact absurd rfl hne

/-! ## Whole packets -/

/-- The rest of a packet, listed as the next input events, is pulled and the packet dispatched. -/
theorem run_of_encode {i : Instr} (hwf : i.wf = true) (rest : List InputEvent) (tail : List Byte) (b : Byte)
    (s : State) (hlink : s.linkUp = true) (hsound : s.framer.Sound) (hfsm : s.framer.fsm ≠ .idle)
    (hencode : encode i = s.framer.pulled ++ b :: tail) (hinbox : s.env.inbox = (b :: tail).map .byte ++ rest) :
    ∃ f, Host.Core.run Sys2Proof.core (tail.length + 1) s =
      exec i { s with framer := f, env := { s.env with inbox := rest } } := by
  induction tail generalizing b s with
  | nil =>
    have hstep := step_byte hlink (nextEvent_cons hinbox)
    rcases onByte_of_encode (s := s.setEnv { s.env with inbox := rest }) hwf hsound hfsm hencode with
      ⟨-, hexec⟩ | ⟨hne, -⟩
    · exact ⟨_, (run_one s).trans (hstep.trans hexec)⟩
    · exact absurd rfl hne
  | cons c tail ih =>
    have hstep := step_byte hlink (nextEvent_cons hinbox)
    rcases onByte_of_encode (s := s.setEnv { s.env with inbox := (c :: tail).map .byte ++ rest }) hwf hsound hfsm
      hencode with ⟨hnil, -⟩ | ⟨-, f, hf, hf', hpulled, hmove⟩
    · cases hnil
    · obtain ⟨g, hrun⟩ := ih c ((s.setEnv { s.env with inbox := (c :: tail).map .byte ++ rest }).setFramer f)
        hlink hf hf' (by rw [hencode, State.setFramer_framer, hpulled, List.append_assoc]; rfl) rfl
      exact ⟨g, (run_next _ (hstep.trans hmove)).trans hrun⟩

/-- Settles O32: the command byte starts the packet from whatever state, at the cost of one `F_RESYNC` inside another
packet; the bytes after it find the framer with what was pulled before them. -/
theorem resyncRunsWholePacket : Obligations.ResyncRunsWholePacket := by
  intro s i rest hlink hwf hinbox
  suffices hrun : ∃ f, Host.Core.run Sys2Proof.core (encode i).length s = exec i { s with
      framer := f
      out := s.out ++ resyncOutputs s.framer.fsm
      env := { s.env with inbox := rest } } by
    obtain ⟨f, hf⟩ := hrun
    exact ⟨f, hf, fun t ht => by rw [exec_framer (hf.symm.trans ht)]⟩
  obtain ⟨tail, hencode⟩ : ∃ tail, encode i = cmdByte i.cmd :: dataByte i.start :: tail := ⟨_, encode_eq i⟩
  rw [hencode] at hinbox ⊢
  have hstart := step_startsPacket (nextEvent_cons hinbox) hlink
  obtain ⟨f, hf⟩ := run_of_encode hwf rest tail (dataByte i.start)
    { s with
      framer := { s.framer with cmd := i.cmd, fsm := .hdrStart }
      out := s.out ++ resyncOutputs s.framer.fsm
      env := { s.env with inbox := (dataByte i.start :: tail).map .byte ++ rest } }
    hlink (sound_of_header (by simp) (by simp)) (by simp) hencode rfl
  exact ⟨f, (run_next _ hstart).trans hf⟩

/-- Pulling the bytes of a packet up to its last leaves a framer that the last one completes. -/
theorem pullAll_of_encode {i : Instr} {last : Byte} (hwf : i.wf = true) (bytes : List Byte) (s : State)
    (hsound : s.framer.Sound) (hfsm : s.framer.fsm ≠ .idle)
    (hencode : encode i = s.framer.pulled ++ (bytes ++ [last])) :
    ∃ f g : Framer, pullAll bytes s = s.setFramer f ∧
      ∀ t : State, t.framer = f → onByte last t = exec i (t.setFramer g) := by
  induction bytes generalizing s with
  | nil =>
    refine ⟨s.framer, s.framer.latch last, rfl, fun t ht => ?_⟩
    rw [← ht] at hsound hfsm hencode ⊢
    rcases onByte_of_encode hwf hsound hfsm hencode with ⟨-, hexec⟩ | ⟨hne, -⟩
    · exact hexec
    · exact absurd rfl hne
  | cons b bytes ih =>
    rcases onByte_of_encode hwf hsound hfsm hencode with ⟨hnil, -⟩ | ⟨-, f, hf, hf', hpulled, hmove⟩
    · simp at hnil
    · obtain ⟨g, l, hpull, hlast⟩ := ih (s.setFramer f) hf hf'
        (by rw [hencode, State.setFramer_framer, hpulled, List.append_assoc]; rfl)
      refine ⟨g, l, ?_, hlast⟩
      rw [pullAll, hmove]
      exact hpull

/-- An encoding is its command byte, some bytes and a last one. -/
theorem exists_encode_eq (i : Instr) : ∃ bytes last, encode i = (cmdByte i.cmd :: bytes) ++ [last] := by
  rw [encode_eq]
  exact ⟨_, _, congrArg (cmdByte i.cmd :: ·) (List.dropLast_append_getLast (List.cons_ne_nil _ _)).symm⟩

theorem pullAll_cmdByte {c : Cmd} {bytes : List Byte} {s : State} (hfsm : s.framer.fsm = .idle) :
    pullAll (cmdByte c :: bytes) s = pullAll bytes (s.setFramer { s.framer with cmd := c, fsm := .hdrStart }) := by
  have hbyte : onByte (cmdByte c) s = .next (onCommandByte (cmdByte c) s) := if_pos (isCommand_cmdByte c)
  rw [pullAll, hbyte, onCommandByte_valid s (cmdOf_cmdByte c), hfsm, resyncOutputs, List.append_nil]
  rfl

/-- Settles O31: the placed state has pulled the packet up to its last byte and has that byte as its next event. -/
theorem placedWordIsRun : Obligations.PlacedWordIsRun := by
  intro s nbits w i hword
  obtain ⟨rest, hdecode⟩ : ∃ rest, decode (tableBytes nbits w) = .ok (i, rest) := by
    unfold decodeTableWord at hword
    split at hword
    · next hdecode =>
      cases hword
      exact ⟨_, hdecode⟩
    · cases hword
  obtain ⟨hwf, -⟩ := decodeAcceptsOnlyEncodings _ _ _ hdecode
  obtain ⟨bytes, last, hencode⟩ := exists_encode_eq i
  obtain ⟨f, g, hpull, hlast⟩ := pullAll_of_encode hwf bytes
    (((s.setLinkUp true).setFsm .idle).setFramer { s.framer with cmd := i.cmd, fsm := .hdrStart })
    (sound_of_header (by simp) (by simp)) (by simp) hencode
  have hplaced : s.withFetchWord nbits w = { s with linkUp := true, framer := f }.offer [last] := by
    have hlastByte : (encode i).drop ((encode i).length - 1) = [last] := by simp [hencode]
    rw [State.withFetchWord, placePacket, hdecode]
    simp only [hlastByte]
    rw [hencode, List.dropLast_concat, pullAll_cmdByte rfl]
    exact congrArg (State.offer · [last]) hpull
  refine ⟨g, ?_⟩
  rw [hplaced, step_byte (b := last) rfl (nextEvent_cons rfl)]
  exact hlast _ rfl

end Sys2Proof.Machine
end
